-- ==== Sys2Proof/Word.lean ====
section
/-! DEFINITION. The words the block moves: 32-bit operation words (30_encoding.md R80), bytes, and the
16-bit result word and fault information (20_memory.md R62, 60_exceptions.md R252). -/

namespace Sys2Proof

/-- An operation or payload word (R80). -/
abbrev Word := BitVec 32

/-- A byte, the only width of a store access (R67). -/
abbrev Byte := BitVec 8

/-- The bus result word (R62) and the fault information (R252) are 16 bits wide. -/
abbrev Half := BitVec 16

end Sys2Proof
end

