-- ==== Sys2Proof/Syntax.lean ====
section
/-! DEFINITION. The seventeen operations of 30_encoding.md R87 and the four ports of R80. -/

namespace Sys2Proof

/-- The ports, one per agent (R80, 60_exceptions.md R262). -/
inductive Port where
  /-- Host commands, class 0. -/
  | host
  /-- Bus conditions, class 1. -/
  | bus
  /-- Transmit conditions, class 2. -/
  | tx
  /-- Receive conditions, class 3. -/
  | rx
deriving DecidableEq, Repr

/-- One constructor per row of R87. -/
inductive Instr where
  /-- `BUS_START addr, cmd, evt, dest` (R104). -/
  | busStart (addr : BitVec 7) (cmd : Byte) (evt : BitVec 5) (dest : Word)
  /-- `SER_START text` (R141). -/
  | serStart (text : List Byte)
  /-- `RING_PUSH msg` (R211). -/
  | ringPush (msg : List Byte)
  /-- `RING_POP t`: `true` is the test sink (R84, R212). -/
  | ringPop (toTestSink : Bool)
  /-- `RING_SPACE` (R213). -/
  | ringSpace
  /-- `RING_OCCUPIED` (R214). -/
  | ringOccupied
  /-- `RX_TEXT` (R176). -/
  | rxText
  /-- `BUS_ACK` (R105). -/
  | busAck
  /-- `BUS_NACK` (R106). -/
  | busNack
  /-- `BUS_DATA b` (R107). -/
  | busData (b : Byte)
  /-- `BUS_STOP` (R108). -/
  | busStop
  /-- `TX_BYTE_READY` (R142). -/
  | txByteReady
  /-- `TX_COMPLETE` (R143). -/
  | txComplete
  /-- `RX_START_FRAME` (R172). -/
  | rxStartFrame
  /-- `RX_BYTE b` (R173). -/
  | rxByte (b : Byte)
  /-- `RX_END_FRAME` (R174). -/
  | rxEndFrame
  /-- `RX_LINE b` (R175). -/
  | rxLine (b : Byte)
deriving DecidableEq, Repr

end Sys2Proof
end

