-- ==== Sys2Proof/WellFormed.lean ====
section
/-! DEFINITION. Which operations have an encoding: the byte string of a Format L operation has 0 to 255 bytes
(30_encoding.md R86); every other operand's type already has the field's width. -/

namespace Sys2Proof

/-- R86: `L` is 0..255. -/
def Instr.wellFormed : Instr → Bool
  | .busStart _ _ _ _ => true
  | .serStart text => decide (text.length ≤ 255)
  | .ringPush msg => decide (msg.length ≤ 255)
  | .ringPop _ => true
  | .ringSpace => true
  | .ringOccupied => true
  | .rxText => true
  | .busAck => true
  | .busNack => true
  | .busData _ => true
  | .busStop => true
  | .txByteReady => true
  | .txComplete => true
  | .rxStartFrame => true
  | .rxByte _ => true
  | .rxEndFrame => true
  | .rxLine _ => true

end Sys2Proof
end

