-- ==== Sys2Proof/Decode.lean ====
section
/-! DEFINITION. The decoder and the encoder of 30_encoding.md, the opcode map, the pseudo-operations and the
assembly text. Both directions are written from the format tables R82 to R86 and the map R87. -/

namespace Sys2Proof

/-- R81: the class nibble `W[31:28]` that is legal on a port. -/
def Port.classNibble : Port → BitVec 4
  | .host => 0
  | .bus => 1
  | .tx => 2
  | .rx => 3

/-- The port an operation is legal on (R81, R87). -/
def Instr.port : Instr → Port
  | .busStart _ _ _ _ => .host
  | .serStart _ => .host
  | .ringPush _ => .host
  | .ringPop _ => .host
  | .ringSpace => .host
  | .ringOccupied => .host
  | .rxText => .host
  | .busAck => .bus
  | .busNack => .bus
  | .busData _ => .bus
  | .busStop => .bus
  | .txByteReady => .tx
  | .txComplete => .tx
  | .rxStartFrame => .rx
  | .rxByte _ => .rx
  | .rxEndFrame => .rx
  | .rxLine _ => .rx

/-- The opcode byte `W[31:24]` (R87). -/
def Instr.opcode : Instr → Byte
  | .busStart _ _ _ _ => 0x01
  | .serStart _ => 0x02
  | .ringPush _ => 0x03
  | .ringPop _ => 0x04
  | .ringSpace => 0x05
  | .ringOccupied => 0x06
  | .rxText => 0x07
  | .busAck => 0x10
  | .busNack => 0x11
  | .busData _ => 0x12
  | .busStop => 0x13
  | .txByteReady => 0x20
  | .txComplete => 0x21
  | .rxStartFrame => 0x30
  | .rxByte _ => 0x31
  | .rxEndFrame => 0x32
  | .rxLine _ => 0x33

/-- What reading a port's words gives. -/
inductive Decoded where
  /-- A legal operation, and the words after it. -/
  | op (i : Instr) (rest : List Word)
  /-- The words decode to nothing: `Fault(ILLEGAL_OP, info)` with `info = W[31:16]` (R88, R89), and the words after what
  was read: after `W` (R88), or after the whole payload where only its padding is illegal (R89; log 8). -/
  | illegal (info : Half) (rest : List Word)
  /-- The agent has not yet presented the whole operation (R80, R92): nothing can be performed (log 5). -/
  | incomplete
deriving DecidableEq, Repr

/-- R88: the fault information of an illegal word, and the words after what was read. -/
def illegalWord (w : Word) (rest : List Word) : Decoded := .illegal (w.extractLsb' 16 16) rest

/-- Format N (R82): `W[23:0] = 0`. -/
def decodeFormatN (i : Instr) (w : Word) (rest : List Word) : Decoded :=
  if w.extractLsb' 0 24 = 0 then .op i rest else illegalWord w rest

/-- Format B (R83): `W[23:8] = 0`, `b = W[7:0]`. -/
def decodeFormatB (i : Byte → Instr) (w : Word) (rest : List Word) : Decoded :=
  if w.extractLsb' 8 16 = 0 then .op (i (w.extractLsb' 0 8)) rest else illegalWord w rest

/-- Format P (R84): `W[23:1] = 0`, `t = W[0]`. -/
def decodeFormatP (i : Bool → Instr) (w : Word) (rest : List Word) : Decoded :=
  if w.extractLsb' 1 23 = 0 then .op (i (w.getLsbD 0)) rest else illegalWord w rest

/-- Format S (R85): bits 23 and 7:5 are 0, `addr = W[22:16]`, `cmd = W[15:8]`, `evt = W[4:0]`, `dest = P0`. -/
def decodeFormatS (i : BitVec 7 → Byte → BitVec 5 → Word → Instr) (w : Word) (rest : List Word) : Decoded :=
  if w.extractLsb' 23 1 = 0 ∧ w.extractLsb' 5 3 = 0 then
    match rest with
    | [] => .incomplete
    | p0 :: rest' => .op (i (w.extractLsb' 16 7) (w.extractLsb' 8 8) (w.extractLsb' 0 5) p0) rest'
  else illegalWord w rest

/-- R86: the four bytes of a payload word, least significant first. -/
def payloadBytes (w : Word) : List Byte :=
  [w.extractLsb' 0 8, w.extractLsb' 8 8, w.extractLsb' 16 8, w.extractLsb' 24 8]

/-- R86: `ceil(L / 4)` payload words hold `L` bytes. -/
def payloadLength (L : Nat) : Nat := (L + 3) / 4

/-- Format L (R86, R89): `W[23:8] = 0`, `L = W[7:0]`, then the payload, whose padding bytes must be 0. -/
def decodeFormatL (i : List Byte → Instr) (w : Word) (rest : List Word) : Decoded :=
  if w.extractLsb' 8 16 = 0 then
    let L := (w.extractLsb' 0 8).toNat
    let n := payloadLength L
    if rest.length < n then .incomplete
    else
      let bytes := (rest.take n).flatMap payloadBytes
      if (bytes.drop L).all (· == 0) then .op (i (bytes.take L)) (rest.drop n) else illegalWord w (rest.drop n)
  else illegalWord w rest

/-- R87: the opcode byte selects the operation; R90: every other opcode is reserved. -/
def decodeOpcode (w : Word) (rest : List Word) : Decoded :=
  match (w.extractLsb' 24 8).toNat with
  | 0x01 => decodeFormatS .busStart w rest
  | 0x02 => decodeFormatL .serStart w rest
  | 0x03 => decodeFormatL .ringPush w rest
  | 0x04 => decodeFormatP .ringPop w rest
  | 0x05 => decodeFormatN .ringSpace w rest
  | 0x06 => decodeFormatN .ringOccupied w rest
  | 0x07 => decodeFormatN .rxText w rest
  | 0x10 => decodeFormatN .busAck w rest
  | 0x11 => decodeFormatN .busNack w rest
  | 0x12 => decodeFormatB .busData w rest
  | 0x13 => decodeFormatN .busStop w rest
  | 0x20 => decodeFormatN .txByteReady w rest
  | 0x21 => decodeFormatN .txComplete w rest
  | 0x30 => decodeFormatN .rxStartFrame w rest
  | 0x31 => decodeFormatB .rxByte w rest
  | 0x32 => decodeFormatN .rxEndFrame w rest
  | 0x33 => decodeFormatB .rxLine w rest
  | _ => illegalWord w rest

/-- The operation the words presented on a port begin with (R80, R81, R88). Total on every list of words. -/
def decode (p : Port) (ws : List Word) : Decoded :=
  match ws with
  | [] => .incomplete
  | w :: rest => if w.extractLsb' 28 4 = p.classNibble then decodeOpcode w rest else illegalWord w rest

/-- R86: bytes packed four to a word, least significant first, the last word padded with 0. -/
def packBytes : List Byte → List Word
  | [] => []
  | [b0] => [(0#24 ++ b0 : BitVec 32)]
  | [b0, b1] => [(0#16 ++ b1 ++ b0 : BitVec 32)]
  | [b0, b1, b2] => [(0#8 ++ b2 ++ b1 ++ b0 : BitVec 32)]
  | b0 :: b1 :: b2 :: b3 :: rest => (b3 ++ b2 ++ b1 ++ b0 : BitVec 32) :: packBytes rest

/-- Format N (R82). -/
def encodeFormatN (i : Instr) : List Word := [(i.opcode ++ 0#24 : BitVec 32)]

/-- Format B (R83). -/
def encodeFormatB (i : Instr) (b : Byte) : List Word := [(i.opcode ++ 0#16 ++ b : BitVec 32)]

/-- Format P (R84). -/
def encodeFormatP (i : Instr) (t : Bool) : List Word := [(i.opcode ++ 0#23 ++ BitVec.ofBool t : BitVec 32)]

/-- Format S (R85). -/
def encodeFormatS (i : Instr) (addr : BitVec 7) (cmd : Byte) (evt : BitVec 5) (dest : Word) : List Word :=
  [(i.opcode ++ 0#1 ++ addr ++ cmd ++ 0#3 ++ evt : BitVec 32), dest]

/-- Format L (R86). -/
def encodeFormatL (i : Instr) (bytes : List Byte) : List Word :=
  (i.opcode ++ 0#16 ++ BitVec.ofNat 8 bytes.length : BitVec 32) :: packBytes bytes

/-- The words of a well-formed operation (R82 to R87). -/
def encode (i : Instr) : List Word :=
  match i with
  | .busStart addr cmd evt dest => encodeFormatS i addr cmd evt dest
  | .serStart text => encodeFormatL i text
  | .ringPush msg => encodeFormatL i msg
  | .ringPop t => encodeFormatP i t
  | .ringSpace => encodeFormatN i
  | .ringOccupied => encodeFormatN i
  | .rxText => encodeFormatN i
  | .busAck => encodeFormatN i
  | .busNack => encodeFormatN i
  | .busData b => encodeFormatB i b
  | .busStop => encodeFormatN i
  | .txByteReady => encodeFormatN i
  | .txComplete => encodeFormatN i
  | .rxStartFrame => encodeFormatN i
  | .rxByte b => encodeFormatB i b
  | .rxEndFrame => encodeFormatN i
  | .rxLine b => encodeFormatB i b

/-- R92: how many words an operation has. -/
def Instr.wordCount : Instr → Nat
  | .busStart _ _ _ _ => 2
  | .serStart text => 1 + payloadLength text.length
  | .ringPush msg => 1 + payloadLength msg.length
  | .ringPop _ => 1
  | .ringSpace => 1
  | .ringOccupied => 1
  | .rxText => 1
  | .busAck => 1
  | .busNack => 1
  | .busData _ => 1
  | .busStop => 1
  | .txByteReady => 1
  | .txComplete => 1
  | .rxStartFrame => 1
  | .rxByte _ => 1
  | .rxEndFrame => 1
  | .rxLine _ => 1

/-- One row of the opcode map R87. -/
structure OpcodeRow where
  mnemonic : String
  port : Port
  pattern : Word
  mask : Word
deriving DecidableEq, Repr

/-- The opcode map as R87 prints it: a row selects its operation by `(W & mask) = match`. -/
def opcodeMap : List OpcodeRow := [
  ⟨"BUS_START", .host, 0x01000000, 0xFF8000E0⟩,
  ⟨"SER_START", .host, 0x02000000, 0xFFFFFF00⟩,
  ⟨"RING_PUSH", .host, 0x03000000, 0xFFFFFF00⟩,
  ⟨"RING_POP", .host, 0x04000000, 0xFFFFFFFE⟩,
  ⟨"RING_SPACE", .host, 0x05000000, 0xFFFFFFFF⟩,
  ⟨"RING_OCCUPIED", .host, 0x06000000, 0xFFFFFFFF⟩,
  ⟨"RX_TEXT", .host, 0x07000000, 0xFFFFFFFF⟩,
  ⟨"BUS_ACK", .bus, 0x10000000, 0xFFFFFFFF⟩,
  ⟨"BUS_NACK", .bus, 0x11000000, 0xFFFFFFFF⟩,
  ⟨"BUS_DATA", .bus, 0x12000000, 0xFFFFFF00⟩,
  ⟨"BUS_STOP", .bus, 0x13000000, 0xFFFFFFFF⟩,
  ⟨"TX_BYTE_READY", .tx, 0x20000000, 0xFFFFFFFF⟩,
  ⟨"TX_COMPLETE", .tx, 0x21000000, 0xFFFFFFFF⟩,
  ⟨"RX_START_FRAME", .rx, 0x30000000, 0xFFFFFFFF⟩,
  ⟨"RX_BYTE", .rx, 0x31000000, 0xFFFFFF00⟩,
  ⟨"RX_END_FRAME", .rx, 0x32000000, 0xFFFFFFFF⟩,
  ⟨"RX_LINE", .rx, 0x33000000, 0xFFFFFF00⟩]

/-- R87: does a row select a word? -/
def OpcodeRow.selects (r : OpcodeRow) (w : Word) : Bool := w &&& r.mask == r.pattern

/-- The name R87 gives an operation. -/
def Instr.mnemonic : Instr → String
  | .busStart _ _ _ _ => "BUS_START"
  | .serStart _ => "SER_START"
  | .ringPush _ => "RING_PUSH"
  | .ringPop _ => "RING_POP"
  | .ringSpace => "RING_SPACE"
  | .ringOccupied => "RING_OCCUPIED"
  | .rxText => "RX_TEXT"
  | .busAck => "BUS_ACK"
  | .busNack => "BUS_NACK"
  | .busData _ => "BUS_DATA"
  | .busStop => "BUS_STOP"
  | .txByteReady => "TX_BYTE_READY"
  | .txComplete => "TX_COMPLETE"
  | .rxStartFrame => "RX_START_FRAME"
  | .rxByte _ => "RX_BYTE"
  | .rxEndFrame => "RX_END_FRAME"
  | .rxLine _ => "RX_LINE"

/-- The agent prefix of R93. -/
def Port.agentPrefix : Port → String
  | .host => "host: "
  | .bus => "bus: "
  | .tx => "tx: "
  | .rx => "rx: "

/-- R93's bracketed byte list, numbers in decimal. -/
def byteListText (bs : List Byte) : String :=
  "[" ++ String.intercalate ", " (bs.map fun b => toString b.toNat) ++ "]"

/-- The operands of R93's syntax, numbers in decimal. -/
def Instr.operandText : Instr → String
  | .busStart addr cmd evt dest =>
    " " ++ toString addr.toNat ++ ", " ++ toString cmd.toNat ++ ", " ++ toString evt.toNat ++ ", " ++ toString dest.toNat
  | .serStart text => " " ++ byteListText text
  | .ringPush msg => " " ++ byteListText msg
  | .ringPop t => if t then " 1" else " 0"
  | .ringSpace => ""
  | .ringOccupied => ""
  | .rxText => ""
  | .busAck => ""
  | .busNack => ""
  | .busData b => " " ++ toString b.toNat
  | .busStop => ""
  | .txByteReady => ""
  | .txComplete => ""
  | .rxStartFrame => ""
  | .rxByte b => " " ++ toString b.toNat
  | .rxEndFrame => ""
  | .rxLine b => " " ++ toString b.toNat

/-- One line of R93's assembly text. -/
def Instr.assembly (i : Instr) : String := i.port.agentPrefix ++ i.mnemonic ++ i.operandText

/-- R94: `RX_LINE_STR s`. -/
def rxLineStr (s : List Byte) : List Instr := s.map .rxLine

/-- R94: `BUS_SENSOR_READ hi, lo`. -/
def busSensorRead (hi lo : Byte) : List Instr :=
  [.busAck, .busAck, .busAck, .busData hi, .busData lo, .busStop]

/-- R94: `TX_DRAIN n`. -/
def txDrain (n : Nat) : List Instr := List.replicate (max n 1) .txByteReady ++ [.txComplete]

/-- R94: `SEND s`. -/
def sendText (s : List Byte) : List Instr := [.ringPush s, .ringPop false]

/-- The longest operation is a Format L of 255 bytes: one operation word and 64 payload words (R92). -/
def longestOperation : Nat := 65

/-- The words of a number whose bit 0 is bit 0 of the first word, later words counting on from it; bits from `nbits`
up are 0. -/
def wordsOfNumber (nbits w : Nat) : List Word :=
  (List.range longestOperation).map fun k => BitVec.ofNat 32 ((w % 2 ^ nbits) >>> (32 * k))

/-- R81: the port on which a word's class is legal, if there is one. -/
def portOfWord (w : Word) : Option Port :=
  match (w.extractLsb' 28 4).toNat with
  | 0 => some .host
  | 1 => some .bus
  | 2 => some .tx
  | 3 => some .rx
  | _ => none

/-- The port on which a word is presented when none is named: that of its class, the host's where no port has it
(it is illegal on every port). -/
def presentingPort (w : Word) : Port := (portOfWord w).getD .host

/-- R92: how many words the operation that begins with this word has, from the opcode and, for Format L, from `L`. -/
def wordsNeeded (w : Word) : Nat :=
  match (w.extractLsb' 24 8).toNat with
  | 0x01 => 2
  | 0x02 => 1 + payloadLength (w.extractLsb' 0 8).toNat
  | 0x03 => 1 + payloadLength (w.extractLsb' 0 8).toNat
  | _ => 1

/-- The operation the decoder reads from the number `w` of `nbits` bits, presented on the port of its class. -/
def decodeTableWord (nbits w : Nat) : Option Instr :=
  let ws := wordsOfNumber nbits w
  match decode (presentingPort (ws.headD 0)) ws with
  | .op i _ => some i
  | .illegal _ _ => none
  | .incomplete => none

end Sys2Proof
end

