-- ==== Sys2Proof/Config.lean ====
section
/-! DEFINITION. The configuration record of 00_scope.md R5 and the values the spec leaves free. -/

namespace Sys2Proof

/-- The implementation parameters of R5. `EVENT_WIDTH` is 32 and `BUS_ADDR_WIDTH` is 7 (D37, D34) and
stand in the types. -/
structure Config where
  /-- `RING_CAP`, R6. -/
  ringCap : Nat
  /-- `TX_BUF_LEN`. -/
  txBufLen : Nat
  /-- `RX_BUF_LEN`, the terminator slot included. -/
  rxBufLen : Nat
  /-- `SOF_MARKER`. -/
  sofMarker : Byte
  /-- `EOF_MARKER`. -/
  eofMarker : Byte
  /-- `TERM`. -/
  term : Byte
  /-- `TX_DONE_EVENT`, an index 0..31. -/
  txDoneEvent : BitVec 5
  /-- `RX_DONE_EVENT`, an index 0..31. -/
  rxDoneEvent : BitVec 5
  /-- `BUS_PM_LEVEL`. -/
  busPmLevel : Nat
  /-- `TX_PM_LEVEL`. -/
  txPmLevel : Nat
  /-- `PM_LEVELS`. -/
  pmLevels : Nat
  /-- `PM_BLOCK_BOUND`. -/
  pmBlockBound : Nat
deriving DecidableEq, Repr

/-- The capacities R6 allows: the powers of two from 2 to 256. -/
def Config.ringCaps : List Nat := [2, 4, 8, 16, 32, 64, 128, 256]

/-- The bounds of R5, R6 and R8. R7's distinct event indices are not among them: "The block does not check
distinctness" (log 9). -/
def Config.valid (c : Config) : Bool := decide (
  c.ringCap ∈ Config.ringCaps ∧ c.txBufLen ≤ 255 ∧ 2 ≤ c.rxBufLen ∧
  c.busPmLevel < c.pmLevels ∧ c.txPmLevel < c.pmLevels ∧ 1 ≤ c.pmLevels ∧ 1 ≤ c.pmBlockBound ∧
  c.sofMarker ≠ c.eofMarker ∧ c.sofMarker ≠ c.term ∧ c.eofMarker ≠ c.term)

/-- DESIGN CHOICE, unsafe (log 1): the values 95_test_vectors.md uses for the parameters R5 leaves OPEN, with the
markers and the terminator R5 gives. Only `State.reset` uses it. -/
def Config.reference : Config where
  ringCap := 8
  txBufLen := 16
  rxBufLen := 16
  sofMarker := 0x23
  eofMarker := 0x21
  term := 0x00
  txDoneEvent := 1
  rxDoneEvent := 3
  busPmLevel := 1
  txPmLevel := 2
  pmLevels := 4
  pmBlockBound := 4

/-- The three byte stores of 20_memory.md R60. -/
inductive Store where
  | tx
  | rx
  | ring
deriving DecidableEq, Repr

/-- FREE VALUE (R43, D14, D40; log 3): what a store's byte holds after the given number of power cycles when no
operation has written it since. -/
opaque Config.unwrittenByte (boots : Nat) (store : Store) (index : Nat) : Byte

/-- FREE VALUE (42_serial_rx.md R176, D32; log 10): the text of `RX_TEXT`'s n-th draw, before it is cut to at most
`RX_BUF_LEN` bytes. -/
opaque Config.drawnText (n : Nat) : List Byte

end Sys2Proof
end

