-- ==== Sys2Proof/Machine/State.lean ====
section
/-! DEFINITION. Everything the spec gives the machine, as plain data: the block's fields (10_state.md R43), its
output trace (R44), the environment of 60_exceptions.md section 6, the configuration (00_scope.md R5), what the
agents present (30_encoding.md R80) and who moves next (60_exceptions.md R260). -/

namespace Sys2Proof.Machine

/-- A byte store (20_memory.md R60): the bytes written since reset, by index, strictly rising (`Memory.wf`). An index
that is not listed has been written by nothing. -/
abbrev Memory := List Host.Cell

/-- `bus_state`, a 3-bit register (R22): its eight codes, in order. -/
inductive BusState where
  | idle
  | selectDevice
  | sendCommand
  | confirmSelect
  | receiveHigh
  | receiveLow
  | done
  /-- The code 7, "never held" (R22); no state that holds it is well formed (R39; log 17). -/
  | reserved
deriving DecidableEq, Repr

/-- `tx_state`, a 2-bit register (R24): its four codes, in order. -/
inductive TxState where
  | idle
  | sending
  | completing
  /-- The code 3, "never held" (R24; log 17). -/
  | reserved
deriving DecidableEq, Repr

/-- `rx_state`, a 2-bit register (R28): its four codes, in order. -/
inductive RxState where
  | idle
  | collecting
  /-- Held only inside the `RX_END_FRAME` step (R28, D31). -/
  | decoding
  /-- The code 3, named by no rule (R39; log 17). -/
  | reserved
deriving DecidableEq, Repr

/-- The commands to the bus peripheral (40_bus_engine.md R103). -/
inductive BusCommand where
  /-- Start or repeated start, then the address byte. -/
  | sel (b : Byte)
  /-- Transmit a data byte. -/
  | wr (b : Byte)
  | ack
  | nack
  | stop
deriving DecidableEq, Repr

/-- The values a `Result` output carries (R45). -/
inductive ResultValue where
  /-- `RING_POP`'s "buffer empty" sentinel. -/
  | empty (e : Bool)
  /-- A count 0..256 of `RING_SPACE` and `RING_OCCUPIED`. -/
  | count (n : Nat)
  /-- `RX_TEXT`'s byte sequence. -/
  | text (bs : List Byte)
deriving DecidableEq, Repr

/-- The outputs of R44. -/
inductive Output where
  /-- To the bus peripheral. -/
  | busCmd (c : BusCommand)
  /-- To the host's memory: a destination handle and a 16-bit word. -/
  | destWrite (handle : Word) (v : Half)
  /-- To the serial transmitter. -/
  | txByte (b : Byte)
  /-- To the event scheduler: an event index 0..31. -/
  | post (e : BitVec 5)
  /-- To the power-mode arbiter. -/
  | pmBlock (l : Nat)
  /-- To the power-mode arbiter. -/
  | pmUnblock (l : Nat)
  /-- To the test sink. -/
  | sinkOut (bs : List Byte)
  /-- To the host. -/
  | result (v : ResultValue)
deriving DecidableEq, Repr

/-- The fault causes of 60_exceptions.md R251. -/
inductive FaultCode where
  | busNotIdle
  | busProtocol
  | ringOverflow
  | txOverflow
  | rxOverflow
  | illegalOp
  | ringCorrupt
  | pmImbalance
deriving DecidableEq, Repr

/-- Who moves next. The order of the moves is free (R260): State holds it as data (log 4). -/
inductive Move where
  /-- The agent of this port takes its next operation (R262). -/
  | port (p : Port)
  /-- The application (its timers, say) posts an event of its own to the scheduler (R266, R270; log 13). -/
  | post (e : BitVec 5)
  /-- The dispatch loop clears an event (R270). -/
  | clear (e : BitVec 5)
  /-- The dispatch loop calls `enter_idle()` (R275). -/
  | enterIdle
  /-- The core wakes (R275; what wakes it is open: log 14). -/
  | wake
  /-- The power cycle, the only reset (70_reset_and_hazards.md R291). -/
  | powerCycle
deriving DecidableEq, Repr

/-- Why a step stops. -/
inductive Fault where
  /-- Raised by every step and every operation of a halted block but the power cycle: "A halted block has no step"
  (R253). Safe: the model stops where the block is stuck (log 7). -/
  | halted
deriving DecidableEq, Repr

/-- Why an operation has no meaning. -/
inductive Refusal where
  /-- An instruction with no meaning in this model; no arm answers it. Safe. -/
  | notModelled (mnemonic : String)
  /-- `TEXT_HAS_TERM` (R255): `SER_START`, or `RING_POP 0`, on a text that contains `TERM`. Safe: the spec orders it. -/
  | textHasTerm
  /-- `NOT_WELL_FORMED` (R255): any operation on a state that is not well formed (R39). Safe: the spec orders it. -/
  | notWellFormed
deriving DecidableEq, Repr

/-- The state of the machine. -/
structure State where
  /-- The configuration record (00_scope.md R5); nothing writes it (log 1). -/
  cfg : Config
  /-- `bus_state` (R22). -/
  busState : BusState
  /-- `bus_addr` (R23). -/
  busAddr : BitVec 7
  /-- `bus_cmd` (R23). -/
  busCmd : Byte
  /-- `bus_dest` (R23). -/
  busDest : Word
  /-- `bus_evt` (R23). -/
  busEvt : BitVec 5
  /-- `bus_hi` (R23). -/
  busHi : Byte
  /-- `tx_state` (R24). -/
  txState : TxState
  /-- `tx_busy` (R25). -/
  txBusy : Bool
  /-- `tx_buf` (R26). -/
  txBuf : Memory
  /-- `tx_len` (R26). -/
  txLen : BitVec 8
  /-- `tx_sent` (R26). -/
  txSent : BitVec 8
  /-- `tx_bl_ie` (R27). -/
  txBlIe : Bool
  /-- `tx_c_ie` (R27). -/
  txCIe : Bool
  /-- `rx_state` (R28). -/
  rxState : RxState
  /-- `rx_buf` (R29). -/
  rxBuf : Memory
  /-- `rx_len` (R29). -/
  rxLen : Nat
  /-- `rx_block` (R30). -/
  rxBlock : Bool
  /-- `rx_byte_ie` (R30). -/
  rxByteIe : Bool
  /-- `rx_eof_ie` (R30). -/
  rxEofIe : Bool
  /-- `rx_valid` (R32). -/
  rxValid : Bool
  /-- `ring_mem` (R33). -/
  ringMem : Memory
  /-- `ring_rd` (R33). -/
  ringRd : Nat
  /-- `ring_wr` (R33). -/
  ringWr : Nat
  /-- `fault_code` (R34). -/
  faultCode : BitVec 8
  /-- `fault_info` (R34). -/
  faultInfo : Half
  /-- The output trace, oldest output first (R44). -/
  trace : List Output
  /-- The event scheduler's mask (R270). -/
  eventMask : BitVec 32
  /-- The power-mode arbiter's block count of each level, level 0 first (R272). -/
  pmCount : List Nat
  /-- The level the core sleeps at, if it sleeps (R275; log 14). -/
  asleep : Option Nat
  /-- MODEL: words presented on the host port and not yet performed (R80; log 4). -/
  hostPort : List Word
  /-- MODEL: words presented on the bus-condition port (R80; log 4). -/
  busPort : List Word
  /-- MODEL: words presented on the transmit-condition port (R80; log 4). -/
  txPort : List Word
  /-- MODEL: words presented on the receive-condition port (R80; log 4). -/
  rxPort : List Word
  /-- MODEL: the moves to come, next first (R260; log 4). -/
  schedule : List Move
  /-- MODEL: the host waits in a held `SER_START` (R256; log 6). -/
  hostHeld : Bool
  /-- MODEL: how many free texts have been drawn (R176; log 10). -/
  draws : Nat
  /-- MODEL: how many power cycles there have been (log 3, log 15). -/
  boots : Nat
deriving DecidableEq, Repr

/-- The state after reset for a configuration (R43, R290, R293). DESIGN CHOICE, unsafe: the bus context is 0 (log 2);
nothing is presented and nobody is scheduled (log 4). -/
def State.resetWith (c : Config) : State where
  cfg := c
  busState := .idle
  busAddr := 0
  busCmd := 0
  busDest := 0
  busEvt := 0
  busHi := 0
  txState := .idle
  txBusy := false
  txBuf := []
  txLen := 0
  txSent := 0
  txBlIe := false
  txCIe := false
  rxState := .idle
  rxBuf := []
  rxLen := 0
  rxBlock := true
  rxByteIe := false
  rxEofIe := false
  rxValid := false
  ringMem := []
  ringRd := 0
  ringWr := 0
  faultCode := 0
  faultInfo := 0
  trace := []
  eventMask := 0
  pmCount := List.replicate c.pmLevels 0
  asleep := none
  hostPort := []
  busPort := []
  txPort := []
  rxPort := []
  schedule := []
  hostHeld := false
  draws := 0
  boots := 0

/-- The machine right after reset, at the reference configuration (log 1). -/
def State.reset : State := State.resetWith Config.reference

end Sys2Proof.Machine
end

