-- ==== Sys2Proof/Machine/Memory.lean ====
section
/-! DEFINITION. The three byte stores of 20_memory.md R60: reading and writing one byte (R61, R67), in one canonical
form. -/

namespace Sys2Proof.Machine

/-- The canonical form: indices strictly rising. An index that is not listed has no value of its own, so no entry can
equal what it reads as. -/
def Memory.wf (m : Memory) : Bool := decide (m.Pairwise fun a b => a.1 < b.1)

/-- Every listed index is below the store's size. -/
def Memory.fits (m : Memory) (size : Nat) : Bool := m.all fun c => decide (c.1 < size)

/-- The byte written last at an index, if one has been written since reset. -/
def Memory.get? (m : Memory) (i : Nat) : Option Byte := m.lookup i

/-- Write one byte, keeping the canonical form. -/
def Memory.set (m : Memory) (i : Nat) (b : Byte) : Memory :=
  match m with
  | [] => [(i, b)]
  | (j, c) :: rest =>
    if i < j then (i, b) :: (j, c) :: rest
    else if i = j then (i, b) :: rest
    else (j, c) :: Memory.set rest i b

/-- Write bytes at rising indices from `i`. -/
def Memory.setAll (m : Memory) (i : Nat) (bs : List Byte) : Memory :=
  match bs with
  | [] => m
  | b :: rest => Memory.setAll (m.set i b) (i + 1) rest

/-- What a store's byte reads as (R61): the byte written last or, where nothing has been written since reset, a free
value (R43, D14, D40; log 3). -/
def Memory.read (m : Memory) (boots : Nat) (store : Store) (i : Nat) : Byte :=
  (m.get? i).getD (Config.unwrittenByte boots store i)

/-- `tx_buf[i]`. -/
def State.txRead (s : State) (i : Nat) : Byte := s.txBuf.read s.boots .tx i

/-- `rx_buf[i]`. -/
def State.rxRead (s : State) (i : Nat) : Byte := s.rxBuf.read s.boots .rx i

/-- `MemRead(i, 1)` (R61). -/
def State.ringRead (s : State) (i : Nat) : Byte := s.ringMem.read s.boots .ring i

end Sys2Proof.Machine
end

