-- ==== Sys2Proof/Machine/Operands.lean ====
section
/-! DEFINITION. The numbers the rules compute: state codes (10_state.md R22, R24, R28), select byte
(40_bus_engine.md R102), result word (20_memory.md R62), fault numbers and information (60_exceptions.md R251, R252)
and ring index arithmetic (43_ring_buffer.md R210). -/

namespace Sys2Proof.Machine

/-- R22. -/
def BusState.code : BusState → BitVec 3
  | .idle => 0
  | .selectDevice => 1
  | .sendCommand => 2
  | .confirmSelect => 3
  | .receiveHigh => 4
  | .receiveLow => 5
  | .done => 6
  | .reserved => 7

/-- R24. -/
def TxState.code : TxState → BitVec 2
  | .idle => 0
  | .sending => 1
  | .completing => 2
  | .reserved => 3

/-- R28. -/
def RxState.code : RxState → BitVec 2
  | .idle => 0
  | .collecting => 1
  | .decoding => 2
  | .reserved => 3

/-- R251. -/
def FaultCode.number : FaultCode → BitVec 8
  | .busNotIdle => 1
  | .busProtocol => 2
  | .ringOverflow => 3
  | .txOverflow => 4
  | .rxOverflow => 5
  | .illegalOp => 6
  | .ringCorrupt => 7
  | .pmImbalance => 8

/-- R252: `(hi << 8) | lo`, 16 bits. -/
def faultInfoOf (hi : Nat) (lo : Byte) : Half := (BitVec.ofNat 16 hi <<< 8) ||| lo.zeroExtend 16

/-- R252: `(bus_state << 8) | opcode`. -/
def busFaultInfo (st : BusState) (opcode : Byte) : Half := faultInfoOf st.code.toNat opcode

/-- The direction bit (R102): `WRITE = 0`, `READ = 1`. -/
inductive Direction where
  | write
  | read
deriving DecidableEq, Repr

/-- R102. -/
def Direction.bit : Direction → Byte
  | .write => 0
  | .read => 1

/-- `sel_byte(addr, rw) = (zext_8(addr) << 1) | rw` (R102). -/
def selByte (addr : BitVec 7) (rw : Direction) : Byte := (addr.zeroExtend 8 <<< 1) ||| rw.bit

/-- `(zext_16(hi) << 8) | zext_16(lo)` (R62). -/
def resultWord (hi lo : Byte) : Half := (hi.zeroExtend 16 <<< 8) ||| lo.zeroExtend 16

/-- The size mask `C - 1` (R33, R6). -/
def State.ringMask (s : State) : Nat := s.cfg.ringCap - 1

/-- `(i + 1) & mask` (R61). -/
def State.ringNext (s : State) (i : Nat) : Nat := (i + 1) &&& s.ringMask

/-- `occ(s) = (ring_wr - ring_rd) & mask` (R210); `C` is added first, since the subtraction is modulo `C` (R9). -/
def State.occ (s : State) : Nat := (s.ringWr + s.cfg.ringCap - s.ringRd) &&& s.ringMask

/-- `space(s) = C - occ(s)` (R210). -/
def State.space (s : State) : Nat := s.cfg.ringCap - s.occ

end Sys2Proof.Machine
end

