-- ==== Sys2Proof/Machine/Flags.lean ====
section
/-! DEFINITION. The status flags (10_state.md R42) and what the rules say of them in a well-formed state (R35, R36,
R39). The block has no arithmetic flags. -/

namespace Sys2Proof.Machine

/-- A block is halted once `fault_code` is nonzero (R34, R253). -/
def State.halted (s : State) : Bool := s.faultCode != 0

/-- `bus_state` holds a value R22 names. R37 asks nothing more of one state by itself (log 9). -/
def State.busOk (s : State) : Bool := decide (s.busState ≠ .reserved)

/-- The transmit invariants (R35), and `tx_state` holds a value R24 names. -/
def State.txOk (s : State) : Bool := decide (
  s.txState ≠ .reserved ∧
  (s.txBusy = true ↔ s.txState ≠ .idle) ∧
  (s.txBlIe = true ↔ s.txState = .sending) ∧
  (s.txCIe = true ↔ s.txState = .completing) ∧
  s.txSent ≤ s.txLen ∧ s.txLen.toNat ≤ s.cfg.txBufLen ∧
  (s.txState = .completing → s.txSent = s.txLen))

/-- The receive invariants (R36); each enable by itself is 1 exactly in `COLLECTING` (log 9). -/
def State.rxOk (s : State) : Bool := decide (
  (s.rxState = .idle ∨ s.rxState = .collecting) ∧
  (s.rxBlock = true ↔ s.rxState = .idle) ∧
  (s.rxByteIe = true ↔ s.rxState = .collecting) ∧
  (s.rxEofIe = true ↔ s.rxState = .collecting) ∧
  (s.rxValid = true → s.rxState = .idle) ∧
  (s.rxState = .collecting → 1 ≤ s.rxLen ∧ s.rxBuf.get? 0 = some s.cfg.sofMarker) ∧
  (s.rxValid = true → s.rxLen < s.cfg.rxBufLen))

/-- The fields fit their widths (R43) under this configuration: what R43 gives as a field's type (log 9). -/
def State.shapeOk (s : State) : Bool := decide (
  s.rxLen ≤ s.cfg.rxBufLen ∧ s.ringRd < s.cfg.ringCap ∧ s.ringWr < s.cfg.ringCap ∧
  s.txBuf.wf = true ∧ s.txBuf.fits s.cfg.txBufLen = true ∧
  s.rxBuf.wf = true ∧ s.rxBuf.fits s.cfg.rxBufLen = true ∧
  s.ringMem.wf = true ∧ s.ringMem.fits s.cfg.ringCap = true)

/-- A well-formed state (R39). -/
def State.wellFormed (s : State) : Bool := s.cfg.valid && s.shapeOk && s.busOk && s.txOk && s.rxOk

end Sys2Proof.Machine
end

