-- ==== Sys2Proof/Machine/Ops.lean ====
section
/-! DEFINITION. The pseudocode primitives of 00_scope.md R11 and the five outcomes of R12, over which every
operation's meaning is written; raising a fault is one operation here (60_exceptions.md R250). -/

namespace Sys2Proof.Machine

/-- `emit O` (R11, R44). -/
def State.emit (s : State) (o : Output) : State := { s with trace := s.trace ++ [o] }

/-- What `raise Fault(code, info)` leaves (R250): the state before the step, `fault_code` and `fault_info` written. The
block is halted from then on (R253); there is no vector and no return (R261). -/
def State.halt (s : State) (c : FaultCode) (info : Half) : State :=
  { s with faultCode := c.number, faultInfo := info }

/-- What a hold leaves (R256): the host waits, nothing else changes (log 6). -/
def State.hold (s : State) : State := { s with hostHeld := true }

/-- The outcome of an operation's rule (R12). A discard is `done` with the state unchanged. -/
inductive Effect where
  | done (s : State)
  | raise (c : FaultCode) (info : Half)
  | hold
  | refuse (r : Refusal)
deriving DecidableEq, Repr

/-- `do OP(args)` inside a step (R11): go on with the state OP leaves; a fault, hold or refusal ends the step. -/
def Effect.andThen (e : Effect) (f : State → Effect) : Effect :=
  match e with
  | .done s => f s
  | .raise c info => .raise c info
  | .hold => .hold
  | .refuse r => .refuse r

/-- Commit an outcome to the state the step began in: a fault or a hold discards every write and output (R12, R250). -/
def Effect.commit (e : Effect) (s : State) : Host.Outcome State Fault Refusal :=
  match e with
  | .done s' => .next s'
  | .raise c info => .next (s.halt c info)
  | .hold => .next s.hold
  | .refuse r => .refused r

/-- Perform an operation: a halted block has no step (R253); a state that is not well formed refuses every operation
(R39, R255); otherwise the operation's rule runs. -/
def State.perform (s : State) (e : Effect) : Host.Outcome State Fault Refusal :=
  if s.halted then .fault .halted
  else if s.wellFormed then e.commit s
  else .refused .notWellFormed

/-- The words presented on a port (30_encoding.md R80). -/
def State.portWords (s : State) : Port → List Word
  | .host => s.hostPort
  | .bus => s.busPort
  | .tx => s.txPort
  | .rx => s.rxPort

/-- Replace the words presented on a port. -/
def State.setPort (s : State) (p : Port) (ws : List Word) : State :=
  match p with
  | .host => { s with hostPort := ws }
  | .bus => { s with busPort := ws }
  | .tx => { s with txPort := ws }
  | .rx => { s with rxPort := ws }

/-- The power cycle (70_reset_and_hazards.md R290, R291): every field takes its reset value, the trace starts empty, a
halt is cleared. What the agents present and the schedule lie outside the machine and stay; the unwritten bytes are
free anew (log 15). -/
def State.powerCycle (s : State) : State :=
  { State.resetWith s.cfg with
    hostPort := s.hostPort, busPort := s.busPort, txPort := s.txPort, rxPort := s.rxPort,
    schedule := s.schedule, draws := s.draws, boots := s.boots + 1 }

end Sys2Proof.Machine
end

