-- ==== Sys2Proof/Machine/Bus.lean ====
section
/-! DEFINITION. The bus transaction engine, 40_bus_engine.md: `BUS_START` and the four bus conditions. -/

namespace Sys2Proof.Machine

/-- A cell of R101 marked *fault*. -/
def State.busProtocol (s : State) (opcode : Byte) : Effect := .raise .busProtocol (busFaultInfo s.busState opcode)

/-- R104. -/
def execBusStart (addr : BitVec 7) (cmd : Byte) (evt : BitVec 5) (dest : Word) (s : State) :
    Host.Outcome State Fault Refusal :=
  s.perform (
    if s.busState ≠ .idle then .raise .busNotIdle (busFaultInfo s.busState 0x01)
    else
      let s1 := s.emit (.pmBlock s.cfg.busPmLevel)
      let s2 := { s1 with busAddr := addr, busCmd := cmd, busDest := dest, busEvt := evt, busState := .selectDevice }
      .done (s2.emit (.busCmd (.sel (selByte addr .write)))))

/-- R105. -/
def execBusAck (s : State) : Host.Outcome State Fault Refusal :=
  s.perform (
    match s.busState with
    | .selectDevice => .done { s.emit (.busCmd (.wr s.busCmd)) with busState := .sendCommand }
    | .sendCommand => .done { s.emit (.busCmd (.sel (selByte s.busAddr .read))) with busState := .confirmSelect }
    | .confirmSelect => .done { s with busState := .receiveHigh }
    | .idle => s.busProtocol 0x10
    | .receiveHigh => s.busProtocol 0x10
    | .receiveLow => s.busProtocol 0x10
    | .done => s.busProtocol 0x10
    | .reserved => s.busProtocol 0x10)

/-- R106: the two retry cells re-issue the select that was not acknowledged (D35), without limit (R113). -/
def execBusNack (s : State) : Host.Outcome State Fault Refusal :=
  s.perform (
    match s.busState with
    | .selectDevice => .done (s.emit (.busCmd (.sel (selByte s.busAddr .write))))
    | .confirmSelect => .done (s.emit (.busCmd (.sel (selByte s.busAddr .read))))
    | .idle => s.busProtocol 0x11
    | .sendCommand => s.busProtocol 0x11
    | .receiveHigh => s.busProtocol 0x11
    | .receiveLow => s.busProtocol 0x11
    | .done => s.busProtocol 0x11
    | .reserved => s.busProtocol 0x11)

/-- R107. -/
def execBusData (b : Byte) (s : State) : Host.Outcome State Fault Refusal :=
  s.perform (
    match s.busState with
    | .receiveHigh => .done { { s with busHi := b }.emit (.busCmd .ack) with busState := .receiveLow }
    | .receiveLow =>
      let s1 := s.emit (.destWrite s.busDest (resultWord s.busHi b))
      .done { (s1.emit (.busCmd .nack)).emit (.busCmd .stop) with busState := .done }
    | .idle => s.busProtocol 0x12
    | .selectDevice => s.busProtocol 0x12
    | .sendCommand => s.busProtocol 0x12
    | .confirmSelect => s.busProtocol 0x12
    | .done => s.busProtocol 0x12
    | .reserved => s.busProtocol 0x12)

/-- R108. The context fields keep their values (R110). -/
def execBusStop (s : State) : Host.Outcome State Fault Refusal :=
  s.perform (
    match s.busState with
    | .done => .done { (s.emit (.pmUnblock s.cfg.busPmLevel)).emit (.post s.busEvt) with busState := .idle }
    | .idle => s.busProtocol 0x13
    | .selectDevice => s.busProtocol 0x13
    | .sendCommand => s.busProtocol 0x13
    | .confirmSelect => s.busProtocol 0x13
    | .receiveHigh => s.busProtocol 0x13
    | .receiveLow => s.busProtocol 0x13
    | .reserved => s.busProtocol 0x13)

end Sys2Proof.Machine
end

