-- ==== Sys2Proof/Machine/SerialTx.lean ====
section
/-! DEFINITION. The serial transmit sub-machine, 41_serial_tx.md. -/

namespace Sys2Proof.Machine

/-- The rule R141 as `SER_START` and `RING_POP 0` perform it; the checks in R254's order: hold, `TEXT_HAS_TERM`,
`TX_OVERFLOW`. -/
def State.startTransmission (s : State) (text : List Byte) : Effect :=
  if s.txBusy then .hold
  else if s.cfg.term ∈ text then .refuse .textHasTerm
  else if text.length > s.cfg.txBufLen then .raise .txOverflow (faultInfoOf text.length 0x02)
  else
    let s1 := { s with
      txBuf := s.txBuf.setAll 0 text, txLen := BitVec.ofNat 8 text.length, txSent := 0,
      txBusy := true, txState := .sending }
    .done { s1.emit (.pmBlock s.cfg.txPmLevel) with txBlIe := true }

/-- R141. -/
def execSerStart (text : List Byte) (s : State) : Host.Outcome State Fault Refusal :=
  s.perform (s.startTransmission text)

/-- R142: the first half, writing the next untransmitted byte if there is one. -/
def State.sendByte (s : State) : State :=
  if s.txSent < s.txLen then
    { s.emit (.txByte (s.txRead s.txSent.toNat)) with txSent := s.txSent + 1 }
  else s

/-- R142: the second half, switching to `COMPLETING` when every byte has been written. -/
def State.finishSending (s : State) : State :=
  if s.txSent = s.txLen then { s with txBlIe := false, txCIe := true, txState := .completing } else s

/-- R142. -/
def execTxByteReady (s : State) : Host.Outcome State Fault Refusal :=
  s.perform (if s.txBlIe then .done s.sendByte.finishSending else .done s)

/-- R143. -/
def execTxComplete (s : State) : Host.Outcome State Fault Refusal :=
  s.perform (
    if s.txCIe then
      let s1 := { s with txBusy := false }
      .done { (s1.emit (.pmUnblock s.cfg.txPmLevel)).emit (.post s.cfg.txDoneEvent) with
        txCIe := false, txState := .idle }
    else .done s)

end Sys2Proof.Machine
end

