-- ==== Sys2Proof/Machine/Ring.lean ====
section
/-! DEFINITION. The ring buffer FIFO, 43_ring_buffer.md. -/

namespace Sys2Proof.Machine

/-- `MemWrite(ring_wr, 1, b)` and the advance of `ring_wr` after it (R61, R211). -/
def State.ringPut (s : State) (b : Byte) : State :=
  { s with ringMem := s.ringMem.set s.ringWr b, ringWr := s.ringNext s.ringWr }

/-- R211's loop over the message bytes. -/
def State.ringPutAll (s : State) (bs : List Byte) : State :=
  match bs with
  | [] => s
  | b :: rest => State.ringPutAll (s.ringPut b) rest

/-- The index `n` advances after `i` (R61). -/
def State.ringAdvance (s : State) (i n : Nat) : Nat :=
  match n with
  | 0 => i
  | n + 1 => State.ringAdvance s (s.ringNext i) n

/-- R212's loop: `n` bytes read from index `i` on. -/
def State.ringReadAll (s : State) (i n : Nat) : List Byte :=
  match n with
  | 0 => []
  | n + 1 => s.ringRead i :: State.ringReadAll s (s.ringNext i) n

/-- R211. -/
def execRingPush (msg : List Byte) (s : State) : Host.Outcome State Fault Refusal :=
  s.perform (
    if msg.length + 2 > s.space then .raise .ringOverflow (faultInfoOf msg.length 0x03)
    else .done ((s.ringPut (BitVec.ofNat 8 (msg.length + 1))).ringPutAll msg))

/-- R212: handing over the message `m`, the record already taken out of the ring in `s`. -/
def State.handOver (s : State) (toTestSink : Bool) (m : List Byte) : Effect :=
  (if toTestSink then Effect.done (s.emit (.sinkOut (m ++ [s.cfg.term]))) else s.startTransmission m).andThen fun t =>
    .done (t.emit (.result (.empty false)))

/-- R212. -/
def execRingPop (toTestSink : Bool) (s : State) : Host.Outcome State Fault Refusal :=
  s.perform (
    if s.txBusy || s.occ == 0 then .done (s.emit (.result (.empty true)))
    else
      let h := (s.ringRead s.ringRd).toNat
      if h = 0 ∨ h > s.occ then .raise .ringCorrupt (faultInfoOf h 0x04)
      else
        let first := s.ringNext s.ringRd
        { s with ringRd := s.ringAdvance first (h - 1) }.handOver toTestSink (s.ringReadAll first (h - 1)))

/-- R213. -/
def execRingSpace (s : State) : Host.Outcome State Fault Refusal :=
  s.perform (.done (s.emit (.result (.count s.space))))

/-- R214. -/
def execRingOccupied (s : State) : Host.Outcome State Fault Refusal :=
  s.perform (.done (s.emit (.result (.count s.occ))))

end Sys2Proof.Machine
end

