-- ==== Sys2Proof/Machine/SerialRx.lean ====
section
/-! DEFINITION. The serial receive sub-machine, 42_serial_rx.md. -/

namespace Sys2Proof.Machine

/-- `append(b, op)` (R171). -/
def State.rxAppend (s : State) (b : Byte) (op : Byte) : Effect :=
  if s.rxLen ≥ s.cfg.rxBufLen then .raise .rxOverflow (faultInfoOf 0 op)
  else .done { s with rxBuf := s.rxBuf.set s.rxLen b, rxLen := s.rxLen + 1 }

/-- The rule R172 as `RX_START_FRAME` and `RX_LINE` perform it. The codes 2 and 3 of `rx_state` are never met: no
well-formed state holds them (R36, R39). -/
def State.startFrame (s : State) : Effect :=
  let appended := { s with rxLen := 0 }.rxAppend s.cfg.sofMarker 0x30
  match s.rxState with
  | .idle => appended.andThen fun t =>
      .done { t with rxValid := false, rxByteIe := true, rxEofIe := true, rxBlock := false, rxState := .collecting }
  | .collecting => appended
  | .decoding => .done s
  | .reserved => .done s

/-- The rule R173 as `RX_BYTE` and `RX_LINE` perform it. -/
def State.receiveByte (s : State) (b : Byte) : Effect :=
  if s.rxBlock || !s.rxByteIe then .done s else s.rxAppend b 0x31

/-- The rule R174 as `RX_END_FRAME` and `RX_LINE` perform it. `DECODING` is passed through inside the step (R28, D31),
so only `RX_IDLE` is left of it. -/
def State.endFrame (s : State) : Effect :=
  if !s.rxEofIe then .done s
  else if s.rxLen ≥ s.cfg.rxBufLen then .raise .rxOverflow (faultInfoOf 0 0x32)
  else
    let s1 := { s with rxState := .decoding }
    let s2 := { s1 with
      rxBuf := s1.rxBuf.set s1.rxLen s1.cfg.term, rxBlock := true, rxByteIe := false, rxEofIe := false, rxValid := true }
    .done { s2.emit (.post s2.cfg.rxDoneEvent) with rxState := .idle }

/-- R172. -/
def execRxStartFrame (s : State) : Host.Outcome State Fault Refusal := s.perform s.startFrame

/-- R173. -/
def execRxByte (b : Byte) (s : State) : Host.Outcome State Fault Refusal := s.perform (s.receiveByte b)

/-- R174. -/
def execRxEndFrame (s : State) : Host.Outcome State Fault Refusal := s.perform s.endFrame

/-- R175: the marker detectors and byte arrival composed in one step. -/
def execRxLine (b : Byte) (s : State) : Host.Outcome State Fault Refusal :=
  s.perform (
    if b = s.cfg.sofMarker then s.startFrame
    else (s.receiveByte b).andThen fun t => if b = t.cfg.eofMarker then t.endFrame else .done t)

/-- `rx_buf[0 : rx_len]` (R29). -/
def State.rxFrame (s : State) : List Byte := (List.range s.rxLen).map s.rxRead

/-- FREE VALUE (R176, D32; log 10): the n-th drawn text, any byte sequence of length at most `RX_BUF_LEN`. -/
def State.drawnText (s : State) : List Byte := (Config.drawnText s.draws).take s.cfg.rxBufLen

/-- R176. The draw counter is the model's own (log 10); of the spec's state nothing changes (R69). -/
def execRxText (s : State) : Host.Outcome State Fault Refusal :=
  s.perform (
    if s.rxValid && !(s.rxFrame.contains s.cfg.term) then .done (s.emit (.result (.text s.rxFrame)))
    else .done { s.emit (.result (.text s.drawnText)) with draws := s.draws + 1 })

end Sys2Proof.Machine
end

