-- ==== Sys2Proof/Machine/Dispatch.lean ====
section
/-! DEFINITION. One arm per operation of 30_encoding.md R87. -/

namespace Sys2Proof.Machine

def exec (i : Instr) (s : State) : Host.Outcome State Fault Refusal :=
  match i with
  | .busStart addr cmd evt dest => Sys2Proof.Machine.execBusStart addr cmd evt dest s
  | .serStart text => Sys2Proof.Machine.execSerStart text s
  | .ringPush msg => Sys2Proof.Machine.execRingPush msg s
  | .ringPop toTestSink => Sys2Proof.Machine.execRingPop toTestSink s
  | .ringSpace => Sys2Proof.Machine.execRingSpace s
  | .ringOccupied => Sys2Proof.Machine.execRingOccupied s
  | .rxText => Sys2Proof.Machine.execRxText s
  | .busAck => Sys2Proof.Machine.execBusAck s
  | .busNack => Sys2Proof.Machine.execBusNack s
  | .busData b => Sys2Proof.Machine.execBusData b s
  | .busStop => Sys2Proof.Machine.execBusStop s
  | .txByteReady => Sys2Proof.Machine.execTxByteReady s
  | .txComplete => Sys2Proof.Machine.execTxComplete s
  | .rxStartFrame => Sys2Proof.Machine.execRxStartFrame s
  | .rxByte b => Sys2Proof.Machine.execRxByte b s
  | .rxEndFrame => Sys2Proof.Machine.execRxEndFrame s
  | .rxLine b => Sys2Proof.Machine.execRxLine b s

end Sys2Proof.Machine
end

