-- ==== Sys2Proof/Machine/Environment.lean ====
section
/-! DEFINITION. The environment contract of 60_exceptions.md section 6: what the event scheduler and the power-mode
arbiter do with the block's `Post`, `PmBlock` and `PmUnblock` outputs, and the dispatch loop's calls to them. -/

namespace Sys2Proof.Machine

/-- The bit an event index names, `1 << e` (30_encoding.md R91). -/
def eventBit (e : BitVec 5) : BitVec 32 := 1#32 <<< e.toNat

/-- `Post(e)` at the scheduler (R270, R271): `mask <- mask | (1 << e)`. -/
def State.postEvent (s : State) (e : BitVec 5) : State := { s with eventMask := s.eventMask ||| eventBit e }

/-- `clear(e)` (R270): `mask <- mask & ~(1 << e)`. -/
def State.clearEvent (s : State) (e : BitVec 5) : State := { s with eventMask := s.eventMask &&& ~~~(eventBit e) }

/-- `pending()` (R270). -/
def State.pendingEvents (s : State) : BitVec 32 := s.eventMask

/-- The block count of a level (R272). -/
def State.blockCount (s : State) (l : Nat) : Nat := s.pmCount.getD l 0

/-- Write a level's block count. -/
def State.setBlockCount (s : State) (l n : Nat) : State := { s with pmCount := s.pmCount.set l n }

/-- The information of `Fault(PM_IMBALANCE, l)` (R252): the level (its low 16 bits: log 12). -/
def imbalance (l : Nat) : Effect := .raise .pmImbalance (BitVec.ofNat 16 l)

/-- `PmBlock(l)` at the arbiter (R272). -/
def State.blockLevel (s : State) (l : Nat) : Effect :=
  if s.blockCount l + 1 > s.cfg.pmBlockBound then imbalance l
  else .done (s.setBlockCount l (s.blockCount l + 1))

/-- `PmUnblock(l)` at the arbiter (R273). -/
def State.unblockLevel (s : State) (l : Nat) : Effect :=
  if s.blockCount l = 0 then imbalance l
  else .done (s.setBlockCount l (s.blockCount l - 1))

/-- `deepest_allowed()` (R274): the least level with a nonzero count, else the deepest level. -/
def State.deepestAllowed (s : State) : Nat :=
  (s.pmCount.findIdx? fun n => decide (n > 0)).getD (s.cfg.pmLevels - 1)

/-- `enter_idle()` (R275): the emptiness check and the sleep are one atomic unit. -/
def State.enterIdle (s : State) : State :=
  if s.eventMask = 0 then { s with asleep := some s.deepestAllowed } else s

/-- What the environment does with one output of the block; the other outputs go to other agents (R44). -/
def State.deliver (s : State) (o : Output) : Effect :=
  match o with
  | .post e => .done (s.postEvent e)
  | .pmBlock l => s.blockLevel l
  | .pmUnblock l => s.unblockLevel l
  | .busCmd _ => .done s
  | .destWrite _ _ => .done s
  | .txByte _ => .done s
  | .sinkOut _ => .done s
  | .result _ => .done s

/-- The outputs of a step, in the order its rule emits them (R70). -/
def State.deliverAll (s : State) (os : List Output) : Effect :=
  match os with
  | [] => .done s
  | o :: rest => (s.deliver o).andThen fun t => State.deliverAll t rest

end Sys2Proof.Machine
end

