-- ==== Sys2Proof/Machine/Moves.lean ====
section
/-! DEFINITION. What one move does: an agent's next operation taken from its port (30_encoding.md R80,
60_exceptions.md R262), the environment's calls (R270, R275) and the power cycle (70_reset_and_hazards.md R291). -/

namespace Sys2Proof.Machine

/-- The state an operation of a port begins in: a held host tries again (R256). -/
def State.beginOperation (s : State) (p : Port) : State :=
  match p with
  | .host => { s with hostHeld := false }
  | .bus => s
  | .tx => s
  | .rx => s

/-- After the operation's own effect. A held operation waits on its port (R256). Any other "once taken, is consumed"
(R257), faulted or not: its words leave the port (log 7), and without a fault its outputs reach the environment in the
same step (R272, R273; log 11). An imbalance the arbiter finds halts the block "exactly as a block fault does" (R276),
discarding the operation's effect. -/
def State.settle (s : State) (p : Port) (rest : List Word) (after : State) : Host.Outcome State Fault Refusal :=
  if p == .host && after.hostHeld then .next after
  else if after.halted then .next (after.setPort p rest)
  else ((after.setPort p rest).deliverAll (after.trace.drop s.trace.length)).commit (s.setPort p rest)

/-- An agent's move: nothing is performed until a whole operation is presented (log 5); words that decode to nothing
fault and leave the port (R88, R89; log 8); otherwise the operation is performed. -/
def State.runPort (s : State) (p : Port) : Host.Outcome State Fault Refusal :=
  match decode p (s.portWords p) with
  | .incomplete => .next s
  | .illegal info rest => .next ((s.halt .illegalOp info).setPort p rest)
  | .op i rest =>
    match exec i (s.beginOperation p) with
    | .next after => (s.beginOperation p).settle p rest after
    | .fault f => .fault f
    | .refused r => .refused r

/-- The dispatch loop can call the scheduler and the arbiter: the host neither waits in a held `SER_START` (R256) nor
sleeps (R275). -/
def State.hostFree (s : State) : Bool := !s.hostHeld && s.asleep.isNone

/-- One move of a block that is not halted. While the core sleeps nothing is taken from a port: what is presented is
taken after the core wakes (R275; log 14). -/
def State.takeMove (s : State) (m : Move) : Host.Outcome State Fault Refusal :=
  match m with
  | .port p => if s.asleep.isSome then .next s else s.runPort p
  | .post e => .next (s.postEvent e)
  | .clear e => .next (if s.hostFree then s.clearEvent e else s)
  | .enterIdle => .next (if s.hostFree then s.enterIdle else s)
  | .wake => .next { s with asleep := none }
  | .powerCycle => .next s.powerCycle

/-- The next move of the schedule. With no move to come the block waits (log 5). A halted block takes no move but the
power cycle (R253, R261). -/
def State.moveOn (s : State) : Host.Outcome State Fault Refusal :=
  match s.schedule with
  | [] => if s.halted then .fault .halted else .next s
  | m :: rest =>
    if s.halted && m != .powerCycle then .fault .halted
    else { s with schedule := rest }.takeMove m

/-- Present the operation whose bits are `w` on the port of its class and schedule that port next, the core awake. -/
def State.presentNumber (s : State) (nbits w : Nat) : State :=
  let ws := wordsOfNumber nbits w
  let first := ws.headD 0
  let p := presentingPort first
  let t := s.setPort p (ws.take (wordsNeeded first) ++ s.portWords p)
  { t with schedule := .port p :: t.schedule, asleep := none }

end Sys2Proof.Machine
end

