-- ==== Sys2Proof/Machine/Step.lean ====
section
/-! DEFINITION. One step of the machine, and how a word is put where the next step takes it. -/

namespace Sys2Proof.Machine

/-- One step: the next move of the schedule (20_memory.md R70). -/
def step (s : State) : Host.Outcome State Fault Refusal := s.moveOn

/-- The state in which the very next step takes the operation whose bits are `w` (log 4). -/
def State.withFetchWord (s : State) (nbits w : Nat) : State := s.presentNumber nbits w

end Sys2Proof.Machine
end

