-- ==== Sys2Proof/Safety.lean ====
section
/-! DEFINITION. The terms in which claims about the block are made: when an operation's rule runs, runs of several
operations, the records the ring holds, the power pairing, and the invariant of every step. -/

namespace Sys2Proof.Machine

/-- The operation's rule runs: the block is not halted (60_exceptions.md R253) and its state is well formed
(10_state.md R39). -/
def State.ready (s : State) : Bool := !s.halted && s.wellFormed

/-- Perform operations one after the other (20_memory.md R70), stopping at the first stop. -/
def runAll (is : List Instr) (s : State) : Host.Outcome State Fault Refusal :=
  match is with
  | [] => .next s
  | i :: rest =>
    match exec i s with
    | .next t => runAll rest t
    | .fault f => .fault f
    | .refused r => .refused r

/-- The bus states a run of operations passes through, one after each operation. -/
def busStatesOf (is : List Instr) (s : State) : List BusState :=
  match is with
  | [] => []
  | i :: rest =>
    match exec i s with
    | .next t => t.busState :: busStatesOf rest t
    | .fault _ => []
    | .refused _ => []

/-- The bus conditions of a whole transaction after its `BUS_START` (40_bus_engine.md R112): `n` retries of the first
select, `m` of the second, and the two data bytes. -/
def busTransaction (n m : Nat) (hi lo : Byte) : List Instr :=
  List.replicate n .busNack ++ [.busAck, .busAck] ++ List.replicate m .busNack ++
    [.busAck, .busData hi, .busData lo, .busStop]

/-- R38: the records in `n` occupied bytes from index `i` on, at most `fuel` of them; none if they are not whole
records, each a header `h >= 1` and `h - 1` message bytes. -/
def State.recordsFrom (s : State) (fuel i n : Nat) : Option (List (List Byte)) :=
  match fuel with
  | 0 => if n = 0 then some [] else none
  | fuel + 1 =>
    if n = 0 then some []
    else
      let h := (s.ringRead i).toNat
      if h = 0 ∨ h > n then none
      else (State.recordsFrom s fuel (s.ringAdvance i h) (n - h)).map (s.ringReadAll (s.ringNext i) (h - 1) :: ·)

/-- The messages the ring holds, oldest first, if its occupied bytes are whole records (R38). -/
def State.ringQueue (s : State) : Option (List (List Byte)) := s.recordsFrom s.occ s.ringRd s.occ

/-- R38: the occupied bytes are a whole number of records. -/
def State.ringWhole (s : State) : Bool := s.ringQueue.isSome

/-- How many blocks of a level the engines hold: one by the bus engine from `BUS_START` to `BUS_STOP` (R111), one by
the transmitter from `SER_START` to `TX_COMPLETE` (R144). -/
def State.outstanding (s : State) (l : Nat) : Nat :=
  (if s.busState ≠ .idle ∧ s.cfg.busPmLevel = l then 1 else 0) + (if s.txBusy = true ∧ s.cfg.txPmLevel = l then 1 else 0)

/-- The arbiter's counts are the blocks the engines hold (R111, R144, R269), and none is above the bound (R272). -/
def State.powerPaired (s : State) : Bool := decide (
  s.pmCount = (List.range s.cfg.pmLevels).map s.outstanding ∧ ∀ l < s.cfg.pmLevels, s.outstanding l ≤ s.cfg.pmBlockBound)

/-- A bus condition that the transition table R101 takes in a state: not a cell marked *fault*. -/
def busTakes (st : BusState) (i : Instr) : Bool :=
  match i with
  | .busAck => st == .selectDevice || st == .sendCommand || st == .confirmSelect
  | .busNack => st == .selectDevice || st == .confirmSelect
  | .busData _ => st == .receiveHigh || st == .receiveLow
  | .busStop => st == .done
  | .busStart _ _ _ _ => false
  | .serStart _ => false
  | .ringPush _ => false
  | .ringPop _ => false
  | .ringSpace => false
  | .ringOccupied => false
  | .rxText => false
  | .txByteReady => false
  | .txComplete => false
  | .rxStartFrame => false
  | .rxByte _ => false
  | .rxEndFrame => false
  | .rxLine _ => false

/-- The delivery contract 42_serial_rx.md R177: the conditions the receiver presents for one line byte. -/
def deliveryContract (c : Config) (b : Byte) : List Instr :=
  if b = c.sofMarker then [.rxStartFrame]
  else if b = c.eofMarker then [.rxByte b, .rxEndFrame]
  else [.rxByte b]

/-- When an operation performed in a ready state faults, with which of R251's causes and with which of R252's
information. Where its rule reaches a hold or a refusal first (R254), it does not fault. -/
def faultAllowed (s : State) (i : Instr) (c : FaultCode) (info : Half) : Prop :=
  match i with
  | .busStart _ _ _ _ => s.busState ≠ .idle ∧ c = .busNotIdle ∧ info = busFaultInfo s.busState 0x01
  | .busAck => busTakes s.busState .busAck = false ∧ c = .busProtocol ∧ info = busFaultInfo s.busState 0x10
  | .busNack => busTakes s.busState .busNack = false ∧ c = .busProtocol ∧ info = busFaultInfo s.busState 0x11
  | .busData b => busTakes s.busState (.busData b) = false ∧ c = .busProtocol ∧ info = busFaultInfo s.busState 0x12
  | .busStop => busTakes s.busState .busStop = false ∧ c = .busProtocol ∧ info = busFaultInfo s.busState 0x13
  | .ringPush msg => s.space < msg.length + 2 ∧ c = .ringOverflow ∧ info = faultInfoOf msg.length 0x03
  | .serStart text =>
    s.txBusy = false ∧ s.cfg.term ∉ text ∧ s.cfg.txBufLen < text.length ∧
      c = .txOverflow ∧ info = faultInfoOf text.length 0x02
  | .ringPop toTestSink =>
    let h := (s.ringRead s.ringRd).toNat
    s.txBusy = false ∧ s.occ ≠ 0 ∧
      (((h = 0 ∨ s.occ < h) ∧ c = .ringCorrupt ∧ info = faultInfoOf h 0x04) ∨
        (toTestSink = false ∧ 0 < h ∧ h ≤ s.occ ∧ s.cfg.term ∉ s.ringReadAll (s.ringNext s.ringRd) (h - 1) ∧
          s.cfg.txBufLen < h - 1 ∧ c = .txOverflow ∧ info = faultInfoOf (h - 1) 0x02))
  | .rxByte _ => s.rxState = .collecting ∧ s.rxLen = s.cfg.rxBufLen ∧ c = .rxOverflow ∧ info = 0x31
  | .rxEndFrame => s.rxState = .collecting ∧ s.rxLen = s.cfg.rxBufLen ∧ c = .rxOverflow ∧ info = 0x32
  | .rxLine b =>
    s.rxState = .collecting ∧ b ≠ s.cfg.sofMarker ∧ c = .rxOverflow ∧
      ((s.rxLen = s.cfg.rxBufLen ∧ info = 0x31) ∨
        (b = s.cfg.eofMarker ∧ s.rxLen + 1 = s.cfg.rxBufLen ∧ info = 0x32))
  | .rxStartFrame => False
  | .rxText => False
  | .ringSpace => False
  | .ringOccupied => False
  | .txByteReady => False
  | .txComplete => False

end Sys2Proof.Machine
end

