-- ==== Sys2Proof/Certificates/Slice0/Obligations.lean ====
section
/-! DEFINITION. The statements for the provers, from the numbered rules of spec/. Where a rule gives an instruction's
result, the next state is written out as a whole, so that it says what changes and that nothing else does. -/

open Sys2Proof Sys2Proof.Machine

/-! ### Encoding (30_encoding.md) -/

/-- R82 to R87, R91: every well-formed operation, with every operand, is read back from its own words, whatever
follows them. -/
def Obligations.DecodeReadsBackEncode : Prop :=
  ∀ (i : Instr) (rest : List Word), i.wellFormed = true → decode i.port (encode i ++ rest) = .op i rest

/-- R82 to R88: the words a decoded operation was read from are exactly its encoding, on its own port. -/
def Obligations.DecodedWordsAreTheEncoding : Prop :=
  ∀ (p : Port) (ws rest : List Word) (i : Instr), decode p ws = .op i rest →
    i.wellFormed = true ∧ i.port = p ∧ ws = encode i ++ rest

/-- R92: how many words each operation has. -/
def Obligations.EncodedLengthFollowsFormat : Prop :=
  ∀ i : Instr, (encode i).length = i.wordCount

/-- R86: payload byte `k` is bits `8*(k mod 4)+7 : 8*(k mod 4)` of payload word `k div 4`, there are `ceil(L / 4)`
payload words, and the bytes of the last one past the string are 0. -/
def Obligations.PayloadBytesPackedLeastSignificantFirst : Prop :=
  ∀ (bs : List Byte), (packBytes bs).length = (bs.length + 3) / 4 ∧
    ∀ k < 4 * (packBytes bs).length,
      ((packBytes bs).getD (k / 4) 0).extractLsb' (8 * (k % 4)) 8 = bs.getD k 0

/-- R87: a word the decoder takes matches one row of the opcode map and no other, the row of the operation it gives,
on the port of its class (R81). -/
def Obligations.DecodedWordMatchesItsOneRow : Prop :=
  ∀ (p : Port) (w : Word) (rest rest' : List Word) (i : Instr), decode p (w :: rest) = .op i rest' →
    ∃ row ∈ opcodeMap, row.selects w = true ∧ row.port = p ∧ row.mnemonic = i.mnemonic ∧
      ∀ other ∈ opcodeMap, other.selects w = true → other = row

/-- R88: a word that matches no row, or only a row of another port, raises `Fault(ILLEGAL_OP, W[31:16])` (code 6, R251)
when it is presented, and nothing else changes. That it does so also in a state that is not well formed, and that the
word leaves its port, is DEDUCED (log 8); the schedule and the ports are the model's (log 4). -/
def Obligations.UnmatchedWordRaisesIllegalOp : Prop :=
  ∀ (s : State) (p : Port) (moves : List Move) (w : Word) (rest : List Word),
    s.schedule = .port p :: moves → s.portWords p = w :: rest → s.halted = false → s.asleep = none →
    (∀ row ∈ opcodeMap, row.selects w = true → row.port ≠ p) →
    step s = .next
      (({ s with schedule := moves, faultCode := 6, faultInfo := w.extractLsb' 16 16 } : State).setPort p rest)

/-- R89: a Format L operation whose payload has a nonzero byte at a position `k >= L` raises
`Fault(ILLEGAL_OP, W[31:16])` when it is presented whole. That it does so also in a state that is not well formed, and
that its words leave the port, is DEDUCED (log 8); the schedule and the ports are the model's (log 4). -/
def Obligations.NonzeroPaddingRaisesIllegalOp : Prop :=
  ∀ (s : State) (moves : List Move) (w : Word) (rest : List Word) (k : Nat),
    s.schedule = .port .host :: moves → s.hostPort = w :: rest → s.halted = false → s.asleep = none →
    (w &&& 0xFFFFFF00#32 = 0x02000000#32 ∨ w &&& 0xFFFFFF00#32 = 0x03000000#32) →
    ((w.extractLsb' 0 8).toNat + 3) / 4 ≤ rest.length →
    (w.extractLsb' 0 8).toNat ≤ k → k < 4 * (((w.extractLsb' 0 8).toNat + 3) / 4) →
    (rest.getD (k / 4) 0).extractLsb' (8 * (k % 4)) 8 ≠ 0#8 →
    step s = .next { s with
      schedule := moves, hostPort := rest.drop (((w.extractLsb' 0 8).toNat + 3) / 4), faultCode := 6,
      faultInfo := w.extractLsb' 16 16 }

/-- R93 and 95_test_vectors.md V-E1 to V-E20: words written out from the spec decode to the operations it says, and the
illegal ones carry the information it says. Which words are left after an illegal one is no rule of the spec: it is DEDUCED
(log 8). -/
def Obligations.SampleWordsDecode : Prop :=
  decode .host [0x0140E302, 0x20000000] = .op (.busStart 0x40 0xE3 2 0x20000000) [] ∧
  decode .host [0x03000005, 0x6C6C6548, 0x0000006F] = .op (.ringPush [0x48, 0x65, 0x6C, 0x6C, 0x6F]) [] ∧
  decode .host [0x02000004, 0x44434241] = .op (.serStart [0x41, 0x42, 0x43, 0x44]) [] ∧
  decode .host [0x04000001] = .op (.ringPop true) [] ∧
  decode .bus [0x12000066] = .op (.busData 0x66) [] ∧
  decode .tx [0x21000000] = .op .txComplete [] ∧
  decode .rx [0x33000023] = .op (.rxLine 0x23) [] ∧
  decode .bus [0x05000000] = .illegal 0x0500 [] ∧
  decode .host [0x01C0E302, 0x20000000] = .illegal 0x01C0 [0x20000000] ∧
  decode .host [0x03000001, 0x00004241] = .illegal 0x0300 []

/-! ### The step, faults, reset -/

/-- R12, R257, R262, R272: when the words on the port of the agent whose turn it is decode to an operation, the step is
that operation's `exec`, and around it the step removes the move from the schedule, lets a waiting host try again, keeps a
held operation's words on the port, removes those of any other, faulted or not, and hands the outputs to the environment
(the schedule, the ports, the hold and the moment of the delivery are the model's, log 4, 6, 7 and 11). -/
def Obligations.StepPerformsTheDecodedOperation : Prop :=
  ∀ (s : State) (p : Port) (moves : List Move) (i : Instr) (rest : List Word),
    s.schedule = .port p :: moves → s.halted = false → s.asleep = none → decode p (s.portWords p) = .op i rest →
    step s =
      let start := { s with schedule := moves }.beginOperation p
      match exec i start with
      | .next t =>
        if p == .host && t.hostHeld then .next t
        else if t.halted then .next (t.setPort p rest)
        else ((t.setPort p rest).deliverAll (t.trace.drop s.trace.length)).commit (start.setPort p rest)
      | .fault f => .fault f
      | .refused r => .refused r

/-- R253: a halted block performs no operation and has no step, until the power cycle (that the model
answers with its fault `halted` is log 7's). -/
def Obligations.HaltedBlockHasNoStep : Prop :=
  ∀ s : State, s.faultCode ≠ 0 →
    (∀ i : Instr, exec i s = .fault .halted) ∧
    ((∀ moves, s.schedule ≠ .powerCycle :: moves) → step s = .fault .halted)

/-- R290, R291: the power cycle takes every field of the block to its reset value, halted or not, and the trace starts
empty. The bus context's zeros are the model's choice (log 2), the ports and the schedule its own (log 4). -/
def Obligations.PowerCycleRestoresReset : Prop :=
  ∀ (s : State) (moves : List Move), s.schedule = .powerCycle :: moves →
    step s = .next { State.resetWith s.cfg with
      hostPort := s.hostPort, busPort := s.busPort, txPort := s.txPort, rxPort := s.rxPort, schedule := moves,
      draws := s.draws, boots := s.boots + 1 }

/-- R43, R290, R293: the reset values the spec gives, for every configuration. -/
def Obligations.ResetLeavesTheStatedValues : Prop :=
  ∀ c : Config, (State.resetWith c).busState = .idle ∧ (State.resetWith c).txState = .idle ∧
    (State.resetWith c).rxState = .idle ∧ (State.resetWith c).txBusy = false ∧ (State.resetWith c).txBlIe = false ∧
    (State.resetWith c).txCIe = false ∧ (State.resetWith c).rxByteIe = false ∧ (State.resetWith c).rxEofIe = false ∧
    (State.resetWith c).rxBlock = true ∧ (State.resetWith c).rxValid = false ∧ (State.resetWith c).txLen = 0 ∧
    (State.resetWith c).txSent = 0 ∧ (State.resetWith c).rxLen = 0 ∧ (State.resetWith c).ringRd = 0 ∧
    (State.resetWith c).ringWr = 0 ∧ (State.resetWith c).faultCode = 0 ∧ (State.resetWith c).faultInfo = 0 ∧
    (State.resetWith c).trace = [] ∧ (State.resetWith c).eventMask = 0 ∧
    (∀ l < c.pmLevels, (State.resetWith c).pmCount[l]? = some 0)

/-- R35, R36, R38, R39, R111: the reset state meets the invariants every step keeps, for every valid configuration. -/
def Obligations.ResetMeetsTheInvariants : Prop :=
  ∀ c : Config, c.valid = true →
    (State.resetWith c).ready = true ∧ (State.resetWith c).ringQueue = some [] ∧ (State.resetWith c).powerPaired = true

/-- R39, R255: every operation on a state that is not well formed is refused (what the model checks beyond R35 and
R36 is log 9's). -/
def Obligations.IllFormedStateRefused : Prop :=
  ∀ (i : Instr) (s : State), s.faultCode = 0 → s.wellFormed = false → exec i s = .refused .notWellFormed

/-- R250, R251, R252, R254: an operation that faults changes `fault_code` and `fault_info` only, and it faults exactly on
the causes R251 gives it, with the information R252 gives; where its rule reaches a hold or a refusal first (R254), it does
not (that a fault is a next state is log 7's). -/
def Obligations.FaultsArePreciseAndListed : Prop :=
  ∀ (i : Instr) (s : State),
    (∀ t : State, exec i s = .next t → t.faultCode ≠ 0 →
      ∃ (c : FaultCode) (info : Half), faultAllowed s i c info ∧
        t = { s with faultCode := c.number, faultInfo := info }) ∧
    (∀ (c : FaultCode) (info : Half), s.ready = true → faultAllowed s i c info →
      exec i s = .next { s with faultCode := c.number, faultInfo := info })

/-- R43: a field changes only by an operation of its "written by" column, the fault fields only where the operation
faults (R250, R251); the configuration, the environment and what
the agents present change by none, and the trace only grows (R44). `hostHeld` and `draws` are the model's (log 6, log 10). -/
def Obligations.FieldsChangeOnlyByTheirWriters : Prop :=
  ∀ (i : Instr) (s t : State), exec i s = .next t →
    (t.busState ≠ s.busState → (∃ a c e d, i = .busStart a c e d) ∨ i.port = .bus) ∧
    ((t.busAddr ≠ s.busAddr ∨ t.busCmd ≠ s.busCmd ∨ t.busDest ≠ s.busDest ∨ t.busEvt ≠ s.busEvt) →
      ∃ a c e d, i = .busStart a c e d) ∧
    (t.busHi ≠ s.busHi → ∃ b, i = .busData b) ∧
    ((t.txBuf ≠ s.txBuf ∨ t.txLen ≠ s.txLen) → (∃ x, i = .serStart x) ∨ i = .ringPop false) ∧
    (t.txSent ≠ s.txSent ∨ t.txBlIe ≠ s.txBlIe → (∃ x, i = .serStart x) ∨ i = .ringPop false ∨ i = .txByteReady) ∧
    (t.txBusy ≠ s.txBusy → (∃ x, i = .serStart x) ∨ i = .ringPop false ∨ i = .txComplete) ∧
    (t.txState ≠ s.txState → (∃ x, i = .serStart x) ∨ i = .ringPop false ∨ i.port = .tx) ∧
    (t.txCIe ≠ s.txCIe → i.port = .tx) ∧
    ((t.rxState ≠ s.rxState ∨ t.rxBlock ≠ s.rxBlock ∨ t.rxByteIe ≠ s.rxByteIe ∨ t.rxEofIe ≠ s.rxEofIe ∨
        t.rxValid ≠ s.rxValid) → i = .rxStartFrame ∨ i = .rxEndFrame ∨ ∃ b, i = .rxLine b) ∧
    (t.rxBuf ≠ s.rxBuf → i.port = .rx) ∧
    (t.rxLen ≠ s.rxLen → i = .rxStartFrame ∨ (∃ b, i = .rxByte b) ∨ ∃ b, i = .rxLine b) ∧
    ((t.ringMem ≠ s.ringMem ∨ t.ringWr ≠ s.ringWr) → ∃ m, i = .ringPush m) ∧
    (t.ringRd ≠ s.ringRd → ∃ b, i = .ringPop b) ∧
    (t.hostHeld ≠ s.hostHeld → ∃ x, i = .serStart x) ∧
    (t.draws ≠ s.draws → i = .rxText) ∧
    (t.faultCode ≠ s.faultCode ∨ t.faultInfo ≠ s.faultInfo →
      ∃ (c : FaultCode) (info : Half), faultAllowed s i c info ∧
        t = { s with faultCode := c.number, faultInfo := info }) ∧
    t.cfg = s.cfg ∧ t.eventMask = s.eventMask ∧ t.pmCount = s.pmCount ∧ t.asleep = s.asleep ∧
    t.hostPort = s.hostPort ∧ t.busPort = s.busPort ∧ t.txPort = s.txPort ∧ t.rxPort = s.rxPort ∧
    t.schedule = s.schedule ∧ t.boots = s.boots ∧ s.trace <+: t.trace

/-! ### Bus transaction engine (40_bus_engine.md) -/

/-- R102 and R62: the select byte is the address with the direction bit appended as the low bit; the result word has
the first byte in its high half. -/
def Obligations.SelectByteAndResultWordLayout : Prop :=
  (∀ addr : BitVec 7, selByte addr .write = addr ++ 0#1 ∧ selByte addr .read = addr ++ 1#1) ∧
  (∀ hi lo : Byte, resultWord hi lo = hi ++ lo)

/-- R104. -/
def Obligations.BusStartBeginsATransaction : Prop :=
  ∀ (addr : BitVec 7) (cmd : Byte) (evt : BitVec 5) (dest : Word) (s : State), s.ready = true →
    encode (.busStart addr cmd evt dest) = [(0x01#8 ++ 0#1 ++ addr ++ cmd ++ 0#3 ++ evt : BitVec 32), dest] ∧
    (Instr.busStart addr cmd evt dest).port = .host ∧
    (s.busState = .idle →
      exec (.busStart addr cmd evt dest) s = .next { s with
        busAddr := addr, busCmd := cmd, busDest := dest, busEvt := evt, busState := .selectDevice,
        trace := s.trace ++ [.pmBlock s.cfg.busPmLevel, .busCmd (.sel (selByte addr .write))] }) ∧
    (s.busState ≠ .idle →
      exec (.busStart addr cmd evt dest) s = .next { s with
        faultCode := 1, faultInfo := faultInfoOf s.busState.code.toNat 0x01 })

/-- R105. -/
def Obligations.BusAckAdvancesTheSelect : Prop :=
  ∀ s : State, s.ready = true →
    encode .busAck = [0x10000000] ∧ Instr.busAck.port = .bus ∧
    (s.busState = .selectDevice →
      exec .busAck s = .next { s with busState := .sendCommand, trace := s.trace ++ [.busCmd (.wr s.busCmd)] }) ∧
    (s.busState = .sendCommand →
      exec .busAck s = .next { s with
        busState := .confirmSelect, trace := s.trace ++ [.busCmd (.sel (selByte s.busAddr .read))] }) ∧
    (s.busState = .confirmSelect → exec .busAck s = .next { s with busState := .receiveHigh }) ∧
    (s.busState = .idle ∨ s.busState = .receiveHigh ∨ s.busState = .receiveLow ∨ s.busState = .done →
      exec .busAck s = .next { s with faultCode := 2, faultInfo := faultInfoOf s.busState.code.toNat 0x10 })

/-- R106. -/
def Obligations.BusNackRetriesTheSelect : Prop :=
  ∀ s : State, s.ready = true →
    encode .busNack = [0x11000000] ∧ Instr.busNack.port = .bus ∧
    (s.busState = .selectDevice →
      exec .busNack s = .next { s with trace := s.trace ++ [.busCmd (.sel (selByte s.busAddr .write))] }) ∧
    (s.busState = .confirmSelect →
      exec .busNack s = .next { s with trace := s.trace ++ [.busCmd (.sel (selByte s.busAddr .read))] }) ∧
    (s.busState = .idle ∨ s.busState = .sendCommand ∨ s.busState = .receiveHigh ∨ s.busState = .receiveLow ∨
        s.busState = .done →
      exec .busNack s = .next { s with faultCode := 2, faultInfo := faultInfoOf s.busState.code.toNat 0x11 })

/-- R107. -/
def Obligations.BusDataStoresAndDelivers : Prop :=
  ∀ (b : Byte) (s : State), s.ready = true →
    encode (.busData b) = [(0x12#8 ++ 0#16 ++ b : BitVec 32)] ∧ (Instr.busData b).port = .bus ∧
    (s.busState = .receiveHigh →
      exec (.busData b) s = .next { s with
        busHi := b, busState := .receiveLow, trace := s.trace ++ [.busCmd .ack] }) ∧
    (s.busState = .receiveLow →
      exec (.busData b) s = .next { s with
        busState := .done,
        trace := s.trace ++ [.destWrite s.busDest (s.busHi ++ b), .busCmd .nack, .busCmd .stop] }) ∧
    (s.busState = .idle ∨ s.busState = .selectDevice ∨ s.busState = .sendCommand ∨ s.busState = .confirmSelect ∨
        s.busState = .done →
      exec (.busData b) s = .next { s with faultCode := 2, faultInfo := faultInfoOf s.busState.code.toNat 0x12 })

/-- R108, R110: the context fields keep their values. -/
def Obligations.BusStopCompletesTheTransaction : Prop :=
  ∀ s : State, s.ready = true →
    encode .busStop = [0x13000000] ∧ Instr.busStop.port = .bus ∧
    (s.busState = .done →
      exec .busStop s = .next { s with
        busState := .idle, trace := s.trace ++ [.pmUnblock s.cfg.busPmLevel, .post s.busEvt] }) ∧
    (s.busState = .idle ∨ s.busState = .selectDevice ∨ s.busState = .sendCommand ∨ s.busState = .confirmSelect ∨
        s.busState = .receiveHigh ∨ s.busState = .receiveLow →
      exec .busStop s = .next { s with faultCode := 2, faultInfo := faultInfoOf s.busState.code.toNat 0x13 })

/-- R101, R259: a bus condition is always taken; it goes on exactly in the cells of the table not marked *fault*. -/
def Obligations.BusConditionsGoOnExactlyPerTable : Prop :=
  ∀ (i : Instr) (s : State), s.ready = true → i.port = .bus →
    ∃ t, exec i s = .next t ∧ (t.faultCode = 0 ↔ busTakes s.busState i = true)

/-- R106, R113: any number of no-acknowledges is retried, one select each, without a fault. -/
def Obligations.BusRetriesAreUnbounded : Prop :=
  ∀ (n : Nat) (s : State), s.ready = true →
    (s.busState = .selectDevice →
      runAll (List.replicate n .busNack) s = .next { s with
        trace := s.trace ++ List.replicate n (.busCmd (.sel (selByte s.busAddr .write))) }) ∧
    (s.busState = .confirmSelect →
      runAll (List.replicate n .busNack) s = .next { s with
        trace := s.trace ++ List.replicate n (.busCmd (.sel (selByte s.busAddr .read))) })

/-- R112: after a `BUS_START` from `IDLE`, the sequences of bus conditions that raise no fault and end in `IDLE` are
exactly those the rule names; they visit the states it names; any other order reaches a fault. -/
def Obligations.BusTransactionsAreExactlyTheNamedSequences : Prop :=
  ∀ (addr : BitVec 7) (cmd : Byte) (evt : BitVec 5) (dest : Word) (s s1 : State),
    s.ready = true → s.busState = .idle → exec (.busStart addr cmd evt dest) s = .next s1 →
    (∀ cs : List Instr, (∀ c ∈ cs, c.port = .bus) →
      ((∃ t, runAll cs s1 = .next t ∧ t.faultCode = 0 ∧ t.busState = .idle) ↔
        ∃ (n m : Nat) (hi lo : Byte), cs = busTransaction n m hi lo)) ∧
    (∀ (n m : Nat) (hi lo : Byte), s1.busState :: busStatesOf (busTransaction n m hi lo) s1 =
      List.replicate (n + 1) .selectDevice ++ [.sendCommand] ++ List.replicate (m + 1) .confirmSelect ++
        [.receiveHigh, .receiveLow, .done, .idle]) ∧
    (∀ cs : List Instr, (∀ c ∈ cs, c.port = .bus) →
      (∀ (n m : Nat) (hi lo : Byte), ¬ cs <+: busTransaction n m hi lo) →
      ∃ (ds : List Instr) (t : State), ds <+: cs ∧ runAll ds s1 = .next t ∧ t.faultCode = FaultCode.busProtocol.number)

/-- R104 to R108, R111: a whole transaction, with any number of retries of either select: one block and one unblock of
the power level, the two received bytes delivered high byte first as one word, the event posted, the context kept. -/
def Obligations.BusTransactionDeliversTheWord : Prop :=
  ∀ (addr : BitVec 7) (cmd : Byte) (evt : BitVec 5) (dest : Word) (n m : Nat) (hi lo : Byte) (s : State),
    s.ready = true → s.busState = .idle →
    runAll (.busStart addr cmd evt dest :: busTransaction n m hi lo) s = .next { s with
      busAddr := addr, busCmd := cmd, busDest := dest, busEvt := evt, busHi := hi,
      trace := s.trace ++ [.pmBlock s.cfg.busPmLevel] ++
        List.replicate (n + 1) (.busCmd (.sel (addr ++ 0#1))) ++ [.busCmd (.wr cmd)] ++
        List.replicate (m + 1) (.busCmd (.sel (addr ++ 1#1))) ++
        [.busCmd .ack, .destWrite dest (hi ++ lo), .busCmd .nack, .busCmd .stop,
          .pmUnblock s.cfg.busPmLevel, .post evt] }

/-! ### Serial transmit (41_serial_tx.md) -/

/-- R141, R254: hold, refusal, fault and the start of a transmission, in the rule's order. The bytes of the text go to
`tx_buf` from index 0 on and every other byte of the store stays. That a held host is marked in `hostHeld` is log 6's. -/
def Obligations.SerStartCopiesBlocksAndEnables : Prop :=
  ∀ (text : List Byte) (s : State), s.ready = true →
    encode (.serStart text) = (0x02#8 ++ 0#16 ++ BitVec.ofNat 8 text.length : BitVec 32) :: packBytes text ∧
    (Instr.serStart text).port = .host ∧
    (s.txBusy = true → exec (.serStart text) s = .next { s with hostHeld := true }) ∧
    (s.txBusy = false → s.cfg.term ∈ text → exec (.serStart text) s = .refused .textHasTerm) ∧
    (s.txBusy = false → s.cfg.term ∉ text → s.cfg.txBufLen < text.length →
      exec (.serStart text) s = .next { s with faultCode := 4, faultInfo := faultInfoOf text.length 0x02 }) ∧
    (s.txBusy = false → s.cfg.term ∉ text → text.length ≤ s.cfg.txBufLen →
      ∃ t, exec (.serStart text) s = .next t ∧
        (∀ k, t.txBuf.get? k = if h : k < text.length then some text[k] else s.txBuf.get? k) ∧
        t = { s with
          txBuf := t.txBuf, txLen := BitVec.ofNat 8 text.length, txSent := 0, txBusy := true, txState := .sending,
          txBlIe := true, trace := s.trace ++ [.pmBlock s.cfg.txPmLevel] })

/-- R256: a `SER_START` presented while a transmission is in flight waits on the host port, and the step changes
nothing but the model's schedule and its mark that the host waits (log 4, log 6). -/
def Obligations.HeldStartWaitsOnTheHostPort : Prop :=
  ∀ (s : State) (moves : List Move) (text : List Byte) (rest : List Word),
    s.schedule = .port .host :: moves → s.ready = true → s.asleep = none → s.txBusy = true →
    decode .host s.hostPort = .op (.serStart text) rest →
    step s = .next { s with schedule := moves, hostHeld := true }

/-- R142. -/
def Obligations.TxByteReadySendsTheNextByte : Prop :=
  ∀ s : State, s.ready = true →
    encode .txByteReady = [0x20000000] ∧ Instr.txByteReady.port = .tx ∧
    (s.txBlIe = false → exec .txByteReady s = .next s) ∧
    (s.txBlIe = true → s.txSent.toNat + 1 < s.txLen.toNat →
      exec .txByteReady s = .next { s with
        txSent := s.txSent + 1, trace := s.trace ++ [.txByte (s.txRead s.txSent.toNat)] }) ∧
    (s.txBlIe = true → s.txSent.toNat + 1 = s.txLen.toNat →
      exec .txByteReady s = .next { s with
        txSent := s.txSent + 1, trace := s.trace ++ [.txByte (s.txRead s.txSent.toNat)],
        txBlIe := false, txCIe := true, txState := .completing }) ∧
    (s.txBlIe = true → s.txSent = s.txLen →
      exec .txByteReady s = .next { s with txBlIe := false, txCIe := true, txState := .completing })

/-- R143. -/
def Obligations.TxCompleteEndsTheTransmission : Prop :=
  ∀ s : State, s.ready = true →
    encode .txComplete = [0x21000000] ∧ Instr.txComplete.port = .tx ∧
    (s.txCIe = false → exec .txComplete s = .next s) ∧
    (s.txCIe = true →
      exec .txComplete s = .next { s with
        txBusy := false, txCIe := false, txState := .idle,
        trace := s.trace ++ [.pmUnblock s.cfg.txPmLevel, .post s.cfg.txDoneEvent] })

/-- R258: a gated condition whose enable is 0 is discarded: no state changes, no output, no fault, nothing latched. -/
def Obligations.GatedConditionsAreDiscarded : Prop :=
  ∀ (b : Byte) (s : State), s.ready = true →
    (s.txBlIe = false → exec .txByteReady s = .next s) ∧
    (s.txCIe = false → exec .txComplete s = .next s) ∧
    (s.rxBlock = true ∨ s.rxByteIe = false → exec (.rxByte b) s = .next s) ∧
    (s.rxEofIe = false → exec .rxEndFrame s = .next s)

/-- R144: one transmission, whole: exactly `max(n, 1)` byte-ready conditions and one transfer-complete, and what the
block emits over it. -/
def Obligations.TransmissionEmitsTheTextInOrder : Prop :=
  ∀ (text : List Byte) (s : State), s.ready = true → s.txBusy = false → s.cfg.term ∉ text →
    text.length ≤ s.cfg.txBufLen →
    (∀ k ≤ max text.length 1, ∃ u,
      runAll (.serStart text :: List.replicate k .txByteReady) s = .next u ∧ u.ready = true ∧ u.txState ≠ .idle) ∧
    ∃ t, runAll (.serStart text :: txDrain text.length) s = .next t ∧ t.ready = true ∧ t.txState = .idle ∧
      t.txBusy = false ∧
      t.trace = s.trace ++ [.pmBlock s.cfg.txPmLevel] ++ text.map .txByte ++
        [.pmUnblock s.cfg.txPmLevel, .post s.cfg.txDoneEvent]

/-! ### Serial receive (42_serial_rx.md) -/

/-- R172: in both states the marker becomes byte 0 of `rx_buf`, which holds one byte; every other byte of the store
stays. -/
def Obligations.RxStartFrameBeginsOrRestarts : Prop :=
  ∀ s : State, s.ready = true →
    encode .rxStartFrame = [0x30000000] ∧ Instr.rxStartFrame.port = .rx ∧
    ∃ t, exec .rxStartFrame s = .next t ∧
      t.rxBuf.get? 0 = some s.cfg.sofMarker ∧ (∀ k, k ≠ 0 → t.rxBuf.get? k = s.rxBuf.get? k) ∧
      (s.rxState = .idle → t = { s with
        rxBuf := t.rxBuf, rxLen := 1, rxValid := false, rxByteIe := true, rxEofIe := true, rxBlock := false,
        rxState := .collecting }) ∧
      (s.rxState = .collecting → t = { s with rxBuf := t.rxBuf, rxLen := 1 })

/-- R173, R171. -/
def Obligations.RxByteAppendsOrFaults : Prop :=
  ∀ (b : Byte) (s : State), s.ready = true →
    encode (.rxByte b) = [(0x31#8 ++ 0#16 ++ b : BitVec 32)] ∧ (Instr.rxByte b).port = .rx ∧
    (s.rxBlock = true ∨ s.rxByteIe = false → exec (.rxByte b) s = .next s) ∧
    (s.rxBlock = false → s.rxByteIe = true → s.rxLen = s.cfg.rxBufLen →
      exec (.rxByte b) s = .next { s with faultCode := 5, faultInfo := 0x31 }) ∧
    (s.rxBlock = false → s.rxByteIe = true → s.rxLen < s.cfg.rxBufLen →
      ∃ t, exec (.rxByte b) s = .next t ∧
        t.rxBuf.get? s.rxLen = some b ∧ (∀ k, k ≠ s.rxLen → t.rxBuf.get? k = s.rxBuf.get? k) ∧
        t = { s with rxBuf := t.rxBuf, rxLen := s.rxLen + 1 })

/-- R174. -/
def Obligations.RxEndFrameCompletesTheFrame : Prop :=
  ∀ s : State, s.ready = true →
    encode .rxEndFrame = [0x32000000] ∧ Instr.rxEndFrame.port = .rx ∧
    (s.rxEofIe = false → exec .rxEndFrame s = .next s) ∧
    (s.rxEofIe = true → s.rxLen = s.cfg.rxBufLen →
      exec .rxEndFrame s = .next { s with faultCode := 5, faultInfo := 0x32 }) ∧
    (s.rxEofIe = true → s.rxLen < s.cfg.rxBufLen →
      ∃ t, exec .rxEndFrame s = .next t ∧
        t.rxBuf.get? s.rxLen = some s.cfg.term ∧ (∀ k, k ≠ s.rxLen → t.rxBuf.get? k = s.rxBuf.get? k) ∧
        t = { s with
          rxBuf := t.rxBuf, rxBlock := true, rxByteIe := false, rxEofIe := false, rxValid := true, rxState := .idle,
          trace := s.trace ++ [.post s.cfg.rxDoneEvent] })

/-- R175: the line byte's effect in each state, with the faults of the parts it performs. -/
def Obligations.RxLinePerformsTheDetectors : Prop :=
  ∀ (b : Byte) (s : State), s.ready = true →
    encode (.rxLine b) = [(0x33#8 ++ 0#16 ++ b : BitVec 32)] ∧ (Instr.rxLine b).port = .rx ∧
    (b = s.cfg.sofMarker → ∃ t, exec (.rxLine b) s = .next t ∧ exec .rxStartFrame s = .next t) ∧
    (b ≠ s.cfg.sofMarker → s.rxState = .idle → exec (.rxLine b) s = .next s) ∧
    (b ≠ s.cfg.sofMarker → s.rxState = .collecting → s.rxLen = s.cfg.rxBufLen →
      exec (.rxLine b) s = .next { s with faultCode := 5, faultInfo := 0x31 }) ∧
    (b ≠ s.cfg.sofMarker → b ≠ s.cfg.eofMarker → s.rxState = .collecting → s.rxLen < s.cfg.rxBufLen →
      ∃ t, exec (.rxLine b) s = .next t ∧
        t.rxBuf.get? s.rxLen = some b ∧ (∀ k, k ≠ s.rxLen → t.rxBuf.get? k = s.rxBuf.get? k) ∧
        t = { s with rxBuf := t.rxBuf, rxLen := s.rxLen + 1 }) ∧
    (b = s.cfg.eofMarker → s.rxState = .collecting → s.rxLen + 1 = s.cfg.rxBufLen →
      exec (.rxLine b) s = .next { s with faultCode := 5, faultInfo := 0x32 }) ∧
    (b = s.cfg.eofMarker → s.rxState = .collecting → s.rxLen + 1 < s.cfg.rxBufLen →
      ∃ t, exec (.rxLine b) s = .next t ∧
        t.rxBuf.get? s.rxLen = some b ∧ t.rxBuf.get? (s.rxLen + 1) = some s.cfg.term ∧
        (∀ k, k ≠ s.rxLen → k ≠ s.rxLen + 1 → t.rxBuf.get? k = s.rxBuf.get? k) ∧
        t = { s with
          rxBuf := t.rxBuf, rxLen := s.rxLen + 1, rxBlock := true, rxByteIe := false, rxEofIe := false,
          rxValid := true, rxState := .idle, trace := s.trace ++ [.post s.cfg.rxDoneEvent] })

/-- R177: unless it faults, `RX_LINE b` is the conditions the delivery contract presents for `b`, one after the
other. -/
def Obligations.RxLineIsTheDeliveryContract : Prop :=
  ∀ (b : Byte) (s t : State), s.ready = true → exec (.rxLine b) s = .next t → t.faultCode = 0 →
    runAll (deliveryContract s.cfg b) s = .next t

/-- R176, R69: the last frame, if it is valid and holds no terminator; otherwise some text of at most `RX_BUF_LEN`
bytes. Nothing changes but the trace (and the model's count of drawn texts, log 10). -/
def Obligations.RxTextReturnsTheFrameOrADraw : Prop :=
  ∀ s : State, s.ready = true →
    encode .rxText = [0x07000000] ∧ Instr.rxText.port = .host ∧
    (s.rxValid = true → s.cfg.term ∉ (List.range s.rxLen).map s.rxRead →
      exec .rxText s = .next { s with
        trace := s.trace ++ [.result (.text ((List.range s.rxLen).map s.rxRead))] }) ∧
    (s.rxValid = false ∨ s.cfg.term ∈ (List.range s.rxLen).map s.rxRead →
      ∃ x : List Byte, x.length ≤ s.cfg.rxBufLen ∧
        exec .rxText s = .next { s with trace := s.trace ++ [.result (.text x)], draws := s.draws + 1 })

/-- R172 to R176, of which R178 is one run: bytes before the start marker and after the end marker are discarded, the frame is
decoded with its markers, its terminator written, its completion posted exactly once, and `RX_TEXT` returns it. -/
def Obligations.FrameIsDecodedFromLineBytes : Prop :=
  ∀ (before body after : List Byte) (s : State), s.ready = true → s.rxState = .idle →
    s.cfg.sofMarker ∉ before → s.cfg.sofMarker ∉ after →
    s.cfg.sofMarker ∉ body → s.cfg.eofMarker ∉ body → s.cfg.term ∉ body → body.length + 3 ≤ s.cfg.rxBufLen →
    ∃ t, runAll (rxLineStr (before ++ [s.cfg.sofMarker] ++ body ++ [s.cfg.eofMarker] ++ after)) s = .next t ∧
      t.ready = true ∧ t.rxState = .idle ∧ t.rxBlock = true ∧ t.rxValid = true ∧ t.rxLen = body.length + 2 ∧
      t.rxFrame = [s.cfg.sofMarker] ++ body ++ [s.cfg.eofMarker] ∧ t.rxBuf.get? t.rxLen = some s.cfg.term ∧
      t.trace = s.trace ++ [.post s.cfg.rxDoneEvent] ∧
      exec .rxText t = .next { t with
        trace := t.trace ++ [.result (.text ([s.cfg.sofMarker] ++ body ++ [s.cfg.eofMarker]))] }

/-- R179: a duplicate start marker restarts the frame, whatever was collected before it. -/
def Obligations.DuplicateStartMarkerRestartsTheFrame : Prop :=
  ∀ (cs : List Byte) (s : State), s.ready = true → s.rxState = .collecting → cs.length + 1 ≤ s.cfg.rxBufLen →
    ∃ t, runAll (.rxStartFrame :: cs.map .rxByte) s = .next t ∧ t.ready = true ∧ t.rxState = .collecting ∧
      t.rxLen = cs.length + 1 ∧ t.rxFrame = s.cfg.sofMarker :: cs ∧ t.trace = s.trace

/-! ### Ring buffer (43_ring_buffer.md) -/

/-- R211, R63: header and message at successive indices from `ring_wr` modulo `C`, every other byte of the store as
before; or the overflow fault, which writes nothing. -/
def Obligations.RingPushStoresHeaderAndMessage : Prop :=
  ∀ (msg : List Byte) (s : State), s.ready = true →
    encode (.ringPush msg) = (0x03#8 ++ 0#16 ++ BitVec.ofNat 8 msg.length : BitVec 32) :: packBytes msg ∧
    (Instr.ringPush msg).port = .host ∧
    (s.space < msg.length + 2 →
      exec (.ringPush msg) s = .next { s with faultCode := 3, faultInfo := faultInfoOf msg.length 0x03 }) ∧
    (msg.length + 2 ≤ s.space →
      ∃ t, exec (.ringPush msg) s = .next t ∧
        (∀ k < s.cfg.ringCap, t.ringMem.get? ((s.ringWr + k) % s.cfg.ringCap) =
          if k = 0 then some (BitVec.ofNat 8 (msg.length + 1))
          else if h : k - 1 < msg.length then some msg[k - 1]
          else s.ringMem.get? ((s.ringWr + k) % s.cfg.ringCap)) ∧
        (∀ a, s.cfg.ringCap ≤ a → t.ringMem.get? a = s.ringMem.get? a) ∧
        t = { s with ringMem := t.ringMem, ringWr := (s.ringWr + msg.length + 1) % s.cfg.ringCap })

/-- R212: the empty sentinel, the corrupt header, the test sink and the transmitter (with `SER_START`'s refusal and
fault). `h` is the header read and `m` the message bytes that follow it. -/
def Obligations.RingPopReturnsOneRecord : Prop :=
  ∀ (toTestSink : Bool) (s : State) (h : Nat) (m : List Byte), s.ready = true →
    h = (s.ringRead s.ringRd).toNat →
    m = (List.range (h - 1)).map (fun k => s.ringRead ((s.ringRd + 1 + k) % s.cfg.ringCap)) →
    encode (.ringPop toTestSink) = [(0x04#8 ++ 0#23 ++ BitVec.ofBool toTestSink : BitVec 32)] ∧
    (Instr.ringPop toTestSink).port = .host ∧
    (s.txBusy = true ∨ s.occ = 0 →
      exec (.ringPop toTestSink) s = .next { s with trace := s.trace ++ [.result (.empty true)] }) ∧
    (s.txBusy = false → s.occ ≠ 0 → h = 0 ∨ s.occ < h →
      exec (.ringPop toTestSink) s = .next { s with faultCode := 7, faultInfo := faultInfoOf h 0x04 }) ∧
    (s.txBusy = false → 0 < h → h ≤ s.occ → toTestSink = true →
      exec (.ringPop toTestSink) s = .next { s with
        ringRd := (s.ringRd + h) % s.cfg.ringCap,
        trace := s.trace ++ [.sinkOut (m ++ [s.cfg.term]), .result (.empty false)] }) ∧
    (s.txBusy = false → 0 < h → h ≤ s.occ → toTestSink = false → s.cfg.term ∈ m →
      exec (.ringPop toTestSink) s = .refused .textHasTerm) ∧
    (s.txBusy = false → 0 < h → h ≤ s.occ → toTestSink = false → s.cfg.term ∉ m → s.cfg.txBufLen < m.length →
      exec (.ringPop toTestSink) s = .next { s with faultCode := 4, faultInfo := faultInfoOf m.length 0x02 }) ∧
    (s.txBusy = false → 0 < h → h ≤ s.occ → toTestSink = false → s.cfg.term ∉ m → m.length ≤ s.cfg.txBufLen →
      ∃ t, exec (.ringPop toTestSink) s = .next t ∧
        (∀ k, t.txBuf.get? k = if hk : k < m.length then some m[k] else s.txBuf.get? k) ∧
        t = { s with
          ringRd := (s.ringRd + h) % s.cfg.ringCap, txBuf := t.txBuf, txLen := BitVec.ofNat 8 m.length, txSent := 0,
          txBusy := true, txState := .sending, txBlIe := true,
          trace := s.trace ++ [.pmBlock s.cfg.txPmLevel, .result (.empty false)] })

/-- R213, R214, R210: the two counts, by reduction modulo the capacity. -/
def Obligations.RingQueriesCountModuloCapacity : Prop :=
  ∀ s : State, s.ready = true →
    encode .ringSpace = [0x05000000] ∧ Instr.ringSpace.port = .host ∧ encode .ringOccupied = [0x06000000] ∧ Instr.ringOccupied.port = .host ∧
    exec .ringOccupied s = .next { s with trace := s.trace ++
      [.result (.count ((s.ringWr + s.cfg.ringCap - s.ringRd) % s.cfg.ringCap))] } ∧
    exec .ringSpace s = .next { s with trace := s.trace ++
      [.result (.count (s.cfg.ringCap - (s.ringWr + s.cfg.ringCap - s.ringRd) % s.cfg.ringCap))] }

/-- R216, R38: space and occupancy always add up to the capacity, at most `C - 1` bytes are occupied, and the space is
the whole capacity exactly when the indices are equal. -/
def Obligations.SpaceAndOccupancyAddUp : Prop :=
  ∀ s : State, s.wellFormed = true →
    s.space + s.occ = s.cfg.ringCap ∧ s.occ ≤ s.cfg.ringCap - 1 ∧ (s.space = s.cfg.ringCap ↔ s.ringRd = s.ringWr)

/-- R215: push then pop yields the message back, with the terminator, from any empty ring, also where operations that
push and pop nothing come between the two and none of them faults; a message of `C - 1` bytes faults. -/
def Obligations.PushThenPopYieldsTheMessage : Prop :=
  ∀ (msg : List Byte) (s : State), s.ready = true → s.occ = 0 → s.txBusy = false →
    (msg.length < s.cfg.ringCap - 1 →
      (∃ t, runAll [.ringPush msg, .ringPop true] s = .next t ∧ t.ready = true ∧
        t.trace = s.trace ++ [.sinkOut (msg ++ [s.cfg.term]), .result (.empty false)] ∧
        t.ringRd = t.ringWr ∧ t.ringWr = (s.ringWr + (msg.length + 1)) % s.cfg.ringCap) ∧
      (∀ (others : List Instr) (u : State), (∀ i ∈ others, (∀ m, i ≠ .ringPush m) ∧ ∀ b, i ≠ .ringPop b) →
        runAll (.ringPush msg :: others) s = .next u → u.faultCode = 0 → u.txBusy = false →
        ∃ t, exec (.ringPop true) u = .next t ∧ t.ready = true ∧
          t.trace = u.trace ++ [.sinkOut (msg ++ [s.cfg.term]), .result (.empty false)] ∧
          t.ringRd = t.ringWr ∧ t.ringWr = (s.ringWr + (msg.length + 1)) % s.cfg.ringCap)) ∧
    (msg.length = s.cfg.ringCap - 1 →
      exec (.ringPush msg) s = .next { s with faultCode := 3, faultInfo := faultInfoOf msg.length 0x03 })

/-- R217, R63: the ring is a first-in, first-out queue of whole messages: a push that does not fault appends its
message, a pop gives the oldest one, whole, to the test sink or to the transmitter and removes it, and the queue is
empty exactly when the ring is. -/
def Obligations.RingIsAQueueOfMessages : Prop :=
  ∀ (s : State) (q : List (List Byte)), s.ready = true → s.ringQueue = some q →
    (q = [] ↔ s.occ = 0) ∧
    (∀ msg : List Byte, msg.length + 2 ≤ s.space →
      ∃ t, exec (.ringPush msg) s = .next t ∧ t.ready = true ∧ t.ringQueue = some (q ++ [msg])) ∧
    (∀ (m : List Byte) (q' : List (List Byte)), q = m :: q' → s.txBusy = false →
      ∃ t, exec (.ringPop true) s = .next t ∧ t.ready = true ∧ t.ringQueue = some q' ∧
        t.trace = s.trace ++ [.sinkOut (m ++ [s.cfg.term]), .result (.empty false)]) ∧
    (∀ (m : List Byte) (q' : List (List Byte)), q = m :: q' → s.txBusy = false → s.cfg.term ∉ m →
      m.length ≤ s.cfg.txBufLen →
      ∃ t, exec (.ringPop false) s = .next t ∧ t.ready = true ∧ t.ringQueue = some q' ∧ t.txState = .sending ∧
        t.txSent = 0 ∧ t.txLen.toNat = m.length ∧ (List.range m.length).map t.txRead = m)

/-- R38, R212: while the occupied bytes are whole records, no pop meets a corrupt header. -/
def Obligations.WholeRecordsAreNeverCorrupt : Prop :=
  ∀ (toTestSink : Bool) (s t : State), s.ready = true → s.ringWhole = true → exec (.ringPop toTestSink) s = .next t →
    t.faultCode ≠ FaultCode.ringCorrupt.number

/-! ### Invariants of every step -/

/-- R35, R36, R39: every step keeps the state well formed. -/
def Obligations.StepKeepsWellFormed : Prop :=
  ∀ s t : State, s.wellFormed = true → step s = .next t → t.wellFormed = true

/-- R38: every step keeps the occupied ring bytes a whole number of records. -/
def Obligations.StepKeepsRecordsWhole : Prop :=
  ∀ s t : State, s.wellFormed = true → s.ringWhole = true → step s = .next t → t.ringWhole = true

/-- R111, R144, R272, R273: every step keeps the arbiter's counts equal to the blocks the engines hold and within the
bound, so no unblock of the block's finds a count of 0. That the application blocks no level is the model's choice
(log 12); that the outputs arrive in the step that emits them, and an imbalance discards that step, is DEDUCED (log 11). -/
def Obligations.StepKeepsPowerPaired : Prop :=
  ∀ s t : State, s.wellFormed = true → s.powerPaired = true → step s = .next t → t.powerPaired = true

/-- 95_test_vectors.md P8, R43: conditions of two of the three engines commute: in either order, where neither faults,
they leave the same state but for the order of the outputs. -/
def Obligations.ConditionsOfDifferentEnginesCommute : Prop :=
  ∀ (i j : Instr) (s t u : State), i.port ≠ .host → j.port ≠ .host → i.port ≠ j.port →
    runAll [i, j] s = .next t → runAll [j, i] s = .next u → t.faultCode = 0 → u.faultCode = 0 →
    { t with trace := [] } = { u with trace := [] } ∧ t.trace.Perm u.trace

/-! ### Environment (60_exceptions.md section 6) -/

/-- R270, R271: post sets one bit of the mask and clear resets it, whatever the other bits are; a second post of the
same event, and clearing an unset bit, change nothing. -/
def Obligations.EventsAreLevelTriggeredFlags : Prop :=
  ∀ (s : State) (e : BitVec 5),
    (∀ k : BitVec 5, (s.postEvent e).eventMask.getLsbD k.toNat = (decide (k = e) || s.eventMask.getLsbD k.toNat)) ∧
    (∀ k : BitVec 5, (s.clearEvent e).eventMask.getLsbD k.toNat = (!decide (k = e) && s.eventMask.getLsbD k.toNat)) ∧
    (s.postEvent e).postEvent e = s.postEvent e ∧
    (s.eventMask.getLsbD e.toNat = false → s.clearEvent e = s)

/-- R272, R273: the arbiter counts up to the bound and down to zero, and finds an imbalance past either (the
information is the low 16 bits of the level, log 12). -/
def Obligations.ArbiterCountsWithinItsBound : Prop :=
  ∀ (s : State) (l : Nat), l < s.pmCount.length →
    (s.blockCount l < s.cfg.pmBlockBound → s.blockLevel l = .done { s with pmCount := s.pmCount.set l (s.blockCount l + 1) }) ∧
    (s.cfg.pmBlockBound ≤ s.blockCount l → s.blockLevel l = .raise .pmImbalance (BitVec.ofNat 16 l)) ∧
    (0 < s.blockCount l → s.unblockLevel l = .done { s with pmCount := s.pmCount.set l (s.blockCount l - 1) }) ∧
    (s.blockCount l = 0 → s.unblockLevel l = .raise .pmImbalance (BitVec.ofNat 16 l))

/-- R274 ("Power-mode monotonicity", 95_test_vectors.md W10): blocking a level and unblocking it again restores the
arbiter. -/
def Obligations.BlockThenUnblockRestores : Prop :=
  ∀ (s t : State) (l : Nat), l < s.pmCount.length → s.blockLevel l = .done t →
    t.unblockLevel l = .done s ∧ t.deepestAllowed ≤ l

/-- R274: the least level with a nonzero count, else the deepest level; a block and its unblock leave it as it was. -/
def Obligations.DeepestAllowedIsTheLeastBlockedLevel : Prop :=
  ∀ s : State,
    ((∃ l, 0 < s.blockCount l) → 0 < s.blockCount s.deepestAllowed ∧ ∀ k < s.deepestAllowed, s.blockCount k = 0) ∧
    ((∀ l, s.blockCount l = 0) → s.deepestAllowed = s.cfg.pmLevels - 1) ∧
    (∀ (l : Nat) (t : State), l < s.pmCount.length → s.blockLevel l = .done t →
      ∃ u, t.unblockLevel l = .done u ∧ u.deepestAllowed = s.deepestAllowed)

/-- R275: a host that is free enters sleep at the level the arbiter allows exactly when the mask is empty; asleep, the
block takes nothing from a port; the wake-up changes nothing of the block (the moves and `asleep` are the model's, log 14). -/
def Obligations.SleepIsEnteredOnlyWithAnEmptyMask : Prop :=
  ∀ (s : State) (moves : List Move), s.halted = false →
    (s.schedule = .enterIdle :: moves → s.asleep = none → s.hostHeld = false → s.eventMask = 0 →
      step s = .next { s with schedule := moves, asleep := some s.deepestAllowed }) ∧
    (s.schedule = .enterIdle :: moves → s.asleep = none → s.hostHeld = false → s.eventMask ≠ 0 →
      step s = .next { s with schedule := moves }) ∧
    (∀ p, s.schedule = .port p :: moves → s.asleep ≠ none → step s = .next { s with schedule := moves }) ∧
    (s.schedule = .wake :: moves → step s = .next { s with schedule := moves, asleep := none })

/-- R272, R276, R250: a `BUS_START`, a `SER_START` or a `RING_POP 0` whose block the arbiter finds above its bound halts
the block with `PM_IMBALANCE` and the level, and nothing else of the operation is kept (that the check falls in the
emitting step is DEDUCED, log 11; that the words leave the port, log 7; the width of the information is log 12's). -/
def Obligations.ImbalanceHaltsTheBlock : Prop :=
  ∀ (s : State) (moves : List Move) (rest : List Word),
    s.schedule = .port .host :: moves → s.ready = true → s.asleep = none → s.hostHeld = false →
    (∀ (addr : BitVec 7) (cmd : Byte) (evt : BitVec 5) (dest : Word),
      decode .host s.hostPort = .op (.busStart addr cmd evt dest) rest → s.busState = .idle →
      s.cfg.pmBlockBound ≤ s.blockCount s.cfg.busPmLevel →
      step s = .next { s with
        schedule := moves, hostPort := rest, faultCode := 8, faultInfo := BitVec.ofNat 16 s.cfg.busPmLevel }) ∧
    (∀ text : List Byte, decode .host s.hostPort = .op (.serStart text) rest → s.txBusy = false →
      s.cfg.term ∉ text → text.length ≤ s.cfg.txBufLen → s.cfg.pmBlockBound ≤ s.blockCount s.cfg.txPmLevel →
      step s = .next { s with
        schedule := moves, hostPort := rest, faultCode := 8, faultInfo := BitVec.ofNat 16 s.cfg.txPmLevel }) ∧
    (∀ (h : Nat) (m : List Byte), decode .host s.hostPort = .op (.ringPop false) rest → s.txBusy = false →
      h = (s.ringRead s.ringRd).toNat → 0 < h → h ≤ s.occ →
      m = (List.range (h - 1)).map (fun k => s.ringRead ((s.ringRd + 1 + k) % s.cfg.ringCap)) →
      s.cfg.term ∉ m → m.length ≤ s.cfg.txBufLen → s.cfg.pmBlockBound ≤ s.blockCount s.cfg.txPmLevel →
      step s = .next { s with
        schedule := moves, hostPort := rest, faultCode := 8, faultInfo := BitVec.ofNat 16 s.cfg.txPmLevel })

/-- R108, R143, R174, R175, R270, R273: the step of a completing condition posts its event to the mask and, for the bus and
the transmitter, unblocks the level (that the outputs arrive in the emitting step is DEDUCED, log 11). -/
def Obligations.CompletionReachesSchedulerAndArbiter : Prop :=
  ∀ (s : State) (moves : List Move) (rest : List Word), s.ready = true → s.asleep = none →
    (s.schedule = .port .bus :: moves → decode .bus s.busPort = .op .busStop rest → s.busState = .done →
      0 < s.blockCount s.cfg.busPmLevel →
      step s = .next { s with
        schedule := moves, busPort := rest, busState := .idle,
        trace := s.trace ++ [.pmUnblock s.cfg.busPmLevel, .post s.busEvt],
        pmCount := s.pmCount.set s.cfg.busPmLevel (s.blockCount s.cfg.busPmLevel - 1),
        eventMask := s.eventMask ||| (1#32 <<< s.busEvt.toNat) }) ∧
    (s.schedule = .port .tx :: moves → decode .tx s.txPort = .op .txComplete rest → s.txCIe = true →
      0 < s.blockCount s.cfg.txPmLevel →
      step s = .next { s with
        schedule := moves, txPort := rest, txBusy := false, txCIe := false, txState := .idle,
        trace := s.trace ++ [.pmUnblock s.cfg.txPmLevel, .post s.cfg.txDoneEvent],
        pmCount := s.pmCount.set s.cfg.txPmLevel (s.blockCount s.cfg.txPmLevel - 1),
        eventMask := s.eventMask ||| (1#32 <<< s.cfg.txDoneEvent.toNat) }) ∧
    (s.schedule = .port .rx :: moves →
      (decode .rx s.rxPort = .op .rxEndFrame rest ∧ s.rxEofIe = true ∧ s.rxLen < s.cfg.rxBufLen) ∨
        (decode .rx s.rxPort = .op (.rxLine s.cfg.eofMarker) rest ∧ s.rxState = .collecting ∧
          s.rxLen + 1 < s.cfg.rxBufLen) →
      ∃ t, step s = .next t ∧ t.eventMask = s.eventMask ||| (1#32 <<< s.cfg.rxDoneEvent.toNat) ∧
        t.pmCount = s.pmCount ∧ t.rxPort = rest ∧ t.rxState = .idle ∧
        t.trace = s.trace ++ [.post s.cfg.rxDoneEvent])

/-- R257: a condition that a step takes is consumed, whether it goes on, faults or is discarded: its words, and no
others, leave its port (the ports and the schedule are the model's, log 4; that a fault consumes too is DEDUCED, log 7). -/
def Obligations.TakenConditionsAreConsumed : Prop :=
  ∀ (s : State) (p : Port) (moves : List Move) (i : Instr) (rest : List Word),
    s.schedule = .port p :: moves → p ≠ .host → s.ready = true → s.asleep = none →
    decode p (s.portWords p) = .op i rest →
    ∃ t, step s = .next t ∧ t.schedule = moves ∧ t.portWords p = rest ∧ ∀ q, q ≠ p → t.portWords q = s.portWords q

/-- R270, R266: a step in which the application posts an event sets its bit of the mask, also asleep; one in which the
dispatch loop clears an event resets its bit, if the host neither waits nor sleeps; nothing else changes (the two moves
and when the host is free are the model's, log 13). -/
def Obligations.EventMovesReachTheScheduler : Prop :=
  ∀ (s : State) (moves : List Move) (e : BitVec 5), s.halted = false →
    (s.schedule = .post e :: moves →
      step s = .next { s with schedule := moves, eventMask := s.eventMask ||| (1#32 <<< e.toNat) }) ∧
    (s.schedule = .clear e :: moves → s.hostHeld = false → s.asleep = none →
      step s = .next { s with schedule := moves, eventMask := s.eventMask &&& ~~~(1#32 <<< e.toNat) }) ∧
    (s.schedule = .clear e :: moves → s.hostHeld = true ∨ s.asleep ≠ none →
      step s = .next { s with schedule := moves })
end

