-- ==== Sys2Proof/Laws/Encoding.lean ====
section
/-! SUPPORT. The bit fields of 30_encoding.md as arithmetic: a concatenation is a sum, a field is a quotient and a
remainder, so that `omega` settles what a word's fields are. -/

namespace Sys2Proof

/-- A concatenation as a sum. -/
theorem toNat_append_eq {m n : Nat} (x : BitVec m) (y : BitVec n) : (x ++ y).toNat = x.toNat * 2 ^ n + y.toNat := by
  rw [BitVec.toNat_append, ← Nat.shiftLeft_add_eq_or_of_lt y.isLt, Nat.shiftLeft_eq]

/-- A field as a quotient and a remainder. -/
theorem toNat_field {n : Nat} (w : BitVec n) (lo len : Nat) : (w.extractLsb' lo len).toNat = w.toNat / 2 ^ lo % 2 ^ len := by
  rw [BitVec.extractLsb'_toNat, Nat.shiftRight_eq_div_pow]

/-- A field is zero exactly when its number is. -/
theorem field_eq_zero_iff {n : Nat} (w : BitVec n) (lo len : Nat) :
    w.extractLsb' lo len = 0#len ↔ w.toNat / 2 ^ lo % 2 ^ len = 0 := by
  rw [← toNat_field, BitVec.toNat_eq]; simp

/-! ### The fields of the five formats -/

theorem fieldsN (op : Byte) : (op ++ 0#24 : BitVec 32).toNat = op.toNat * 2 ^ 24 := by
  rw [toNat_append_eq]; simp

theorem fieldsB (op b : Byte) : (op ++ 0#16 ++ b : BitVec 32).toNat = op.toNat * 2 ^ 24 + b.toNat := by
  rw [toNat_append_eq, toNat_append_eq]; simp; omega

theorem fieldsP (op : Byte) (t : Bool) :
    (op ++ 0#23 ++ BitVec.ofBool t : BitVec 32).toNat = op.toNat * 2 ^ 24 + t.toNat := by
  rw [toNat_append_eq, toNat_append_eq]; cases t <;> simp <;> omega

theorem fieldsS (op : Byte) (addr : BitVec 7) (cmd : Byte) (evt : BitVec 5) :
    (op ++ 0#1 ++ addr ++ cmd ++ 0#3 ++ evt : BitVec 32).toNat =
      op.toNat * 2 ^ 24 + addr.toNat * 2 ^ 16 + cmd.toNat * 2 ^ 8 + evt.toNat := by
  simp only [toNat_append_eq]; simp; omega

theorem fieldsWord (b0 b1 b2 b3 : Byte) :
    (b3 ++ b2 ++ b1 ++ b0 : BitVec 32).toNat = b3.toNat * 2 ^ 24 + b2.toNat * 2 ^ 16 + b1.toNat * 2 ^ 8 + b0.toNat := by
  simp only [toNat_append_eq]; omega

/-! ### Payload words (R86) -/

theorem payloadBytes_length (w : Word) : (payloadBytes w).length = 4 := rfl

theorem payloadBytes_word (b0 b1 b2 b3 : Byte) : payloadBytes (b3 ++ b2 ++ b1 ++ b0 : BitVec 32) = [b0, b1, b2, b3] := by
  have h := fieldsWord b0 b1 b2 b3
  have l0 := b0.isLt
  have l1 := b1.isLt
  have l2 := b2.isLt
  have l3 := b3.isLt
  simp only [payloadBytes, List.cons.injEq, and_true]
  refine ⟨?_, ?_, ?_, ?_⟩ <;> apply BitVec.eq_of_toNat_eq <;> rw [toNat_field, h] <;> omega

theorem word_payloadBytes (w : Word) :
    (w.extractLsb' 24 8 ++ w.extractLsb' 16 8 ++ w.extractLsb' 8 8 ++ w.extractLsb' 0 8 : BitVec 32) = w := by
  apply BitVec.eq_of_toNat_eq
  rw [fieldsWord]
  simp only [toNat_field]
  have := w.isLt
  omega

theorem payloadBytes_one (b0 : Byte) : payloadBytes (0#24 ++ b0 : BitVec 32) = [b0, 0, 0, 0] := by
  have : (0#24 ++ b0 : BitVec 32) = (0#8 ++ 0#8 ++ 0#8 ++ b0 : BitVec 32) := by
    apply BitVec.eq_of_toNat_eq; simp only [toNat_append_eq]; simp
  rw [this]; exact payloadBytes_word b0 0 0 0

theorem payloadBytes_two (b0 b1 : Byte) : payloadBytes (0#16 ++ b1 ++ b0 : BitVec 32) = [b0, b1, 0, 0] := by
  have : (0#16 ++ b1 ++ b0 : BitVec 32) = (0#8 ++ 0#8 ++ b1 ++ b0 : BitVec 32) := by
    apply BitVec.eq_of_toNat_eq; simp only [toNat_append_eq]; simp
  rw [this]; exact payloadBytes_word b0 b1 0 0

theorem payloadBytes_three (b0 b1 b2 : Byte) : payloadBytes (0#8 ++ b2 ++ b1 ++ b0 : BitVec 32) = [b0, b1, b2, 0] :=
  payloadBytes_word b0 b1 b2 0

/-- Unpacking the packed words gives the string back, padded with zeros to whole words. -/
theorem unpack_packBytes (bs : List Byte) : ∃ pad : List Byte, (packBytes bs).flatMap payloadBytes = bs ++ pad ∧
    ∀ b ∈ pad, b = 0 := by
  induction bs using packBytes.induct with
  | case1 => exact ⟨[], rfl, by simp⟩
  | case2 b0 => exact ⟨[0, 0, 0], by simp [packBytes, payloadBytes_one], by simp⟩
  | case3 b0 b1 => exact ⟨[0, 0], by simp [packBytes, payloadBytes_two], by simp⟩
  | case4 b0 b1 b2 => exact ⟨[0], by simp [packBytes, payloadBytes_three], by simp⟩
  | case5 b0 b1 b2 b3 rest ih =>
    obtain ⟨pad, h, hp⟩ := ih
    exact ⟨pad, by simp [packBytes, payloadBytes_word, h], hp⟩

end Sys2Proof
end

