-- ==== Sys2Proof/Laws/Memory.lean ====
section
/-! SUPPORT. The byte stores: read after write, writes elsewhere, and that every write keeps the canonical form. -/

namespace Sys2Proof.Machine

theorem Memory.wf_iff (m : Memory) : m.wf = true ↔ m.Pairwise fun a b => a.1 < b.1 := by
  simp [Memory.wf]

theorem Memory.fits_iff (m : Memory) (size : Nat) : m.fits size = true ↔ ∀ c ∈ m, c.1 < size := by
  simp [Memory.fits]

@[simp] theorem Memory.wf_nil : Memory.wf [] = true := rfl

@[simp] theorem Memory.fits_nil (size : Nat) : Memory.fits [] size = true := rfl

@[simp] theorem Memory.get?_nil (i : Nat) : Memory.get? [] i = none := rfl

theorem Memory.get?_cons (j i : Nat) (c : Byte) (m : Memory) :
    Memory.get? ((j, c) :: m) i = if i = j then some c else m.get? i := by
  by_cases h : i = j
  · simp [Memory.get?, h]
  · have hb : (i == j) = false := by simpa using h
    simp [Memory.get?, List.lookup, hb, h]

@[simp] theorem Memory.get?_set_self (m : Memory) (i : Nat) (b : Byte) : (m.set i b).get? i = some b := by
  induction m with
  | nil => simp [Memory.set, Memory.get?_cons]
  | cons c m ih =>
    obtain ⟨j, c⟩ := c
    rw [Memory.set]
    split_ifs with h1 h2
    · simp [Memory.get?_cons]
    · simp [Memory.get?_cons]
    · simp [Memory.get?_cons, h2, ih]

theorem Memory.get?_set_of_ne (m : Memory) {i k : Nat} (b : Byte) (h : k ≠ i) : (m.set i b).get? k = m.get? k := by
  induction m with
  | nil => simp [Memory.set, Memory.get?_cons, h]
  | cons c m ih =>
    obtain ⟨j, c⟩ := c
    rw [Memory.set]
    split_ifs with h1 h2
    · simp [Memory.get?_cons, h]
    · subst h2; simp [Memory.get?_cons, h]
    · simp [Memory.get?_cons, ih]

theorem Memory.mem_set (m : Memory) (i : Nat) (b : Byte) (c : Host.Cell) (h : c ∈ m.set i b) : c = (i, b) ∨ c ∈ m := by
  induction m with
  | nil => simpa [Memory.set] using h
  | cons d m ih =>
    obtain ⟨j, d⟩ := d
    rw [Memory.set] at h
    split_ifs at h with h1 h2
    · simpa using h
    · rcases List.mem_cons.1 h with h | h
      · exact .inl h
      · exact .inr (List.mem_cons_of_mem _ h)
    · rcases List.mem_cons.1 h with h | h
      · exact .inr (by simp [h])
      · rcases ih h with h | h
        · exact .inl h
        · exact .inr (List.mem_cons_of_mem _ h)

theorem Memory.set_wf (m : Memory) (i : Nat) (b : Byte) (h : m.wf = true) : (m.set i b).wf = true := by
  rw [Memory.wf_iff] at h ⊢
  induction m with
  | nil => simp [Memory.set]
  | cons c m ih =>
    obtain ⟨j, c⟩ := c
    obtain ⟨hj, hm⟩ := List.pairwise_cons.1 h
    rw [Memory.set]
    split_ifs with h1 h2
    · refine List.pairwise_cons.2 ⟨fun d hd => ?_, h⟩
      rcases List.mem_cons.1 hd with rfl | hd
      · exact h1
      · exact lt_trans h1 (hj d hd)
    · subst h2
      exact List.pairwise_cons.2 ⟨hj, hm⟩
    · refine List.pairwise_cons.2 ⟨fun d hd => ?_, ih hm⟩
      rcases Memory.mem_set m i b d hd with rfl | hd
      · exact lt_of_le_of_ne (Nat.le_of_not_lt h1) (Ne.symm h2)
      · exact hj d hd

theorem Memory.set_fits (m : Memory) {i size : Nat} (b : Byte) (hi : i < size) (h : m.fits size = true) :
    (m.set i b).fits size = true := by
  rw [Memory.fits_iff] at h ⊢
  intro c hc
  rcases Memory.mem_set m i b c hc with rfl | hc
  · exact hi
  · exact h c hc

theorem Memory.setAll_wf (m : Memory) (i : Nat) (bs : List Byte) (h : m.wf = true) : (m.setAll i bs).wf = true := by
  induction bs generalizing m i with
  | nil => exact h
  | cons b bs ih => exact ih _ _ (m.set_wf i b h)

theorem Memory.setAll_fits (m : Memory) {i size : Nat} (bs : List Byte) (hi : i + bs.length ≤ size)
    (h : m.fits size = true) : (m.setAll i bs).fits size = true := by
  induction bs generalizing m i with
  | nil => exact h
  | cons b bs ih =>
    simp only [List.length_cons] at hi
    exact ih _ (by omega) (m.set_fits b (by omega) h)

theorem Memory.get?_setAll_below (m : Memory) {i k : Nat} (bs : List Byte) (h : k < i) :
    (m.setAll i bs).get? k = m.get? k := by
  induction bs generalizing m i with
  | nil => rfl
  | cons b bs ih => rw [Memory.setAll, ih _ (by omega), Memory.get?_set_of_ne _ _ (by omega)]

/-- What a run of writes leaves: the bytes at their indices, every other index as before. -/
theorem Memory.get?_setAll (m : Memory) (i k : Nat) (bs : List Byte) :
    (m.setAll i bs).get? k = if h : i ≤ k ∧ k < i + bs.length then some (bs[k - i]'(by omega)) else m.get? k := by
  induction bs generalizing m i with
  | nil => rw [dif_neg (by simp only [List.length_nil]; omega)]; rfl
  | cons b bs ih =>
    rw [Memory.setAll]
    by_cases hk : k = i
    · subst hk
      rw [Memory.get?_setAll_below _ _ (by omega), Memory.get?_set_self,
        dif_pos (by simp only [List.length_cons]; omega)]
      simp
    · rw [ih, Memory.get?_set_of_ne _ _ hk]
      by_cases h : i + 1 ≤ k ∧ k < i + 1 + bs.length
      · rw [dif_pos h, dif_pos (by simp only [List.length_cons]; omega)]
        have : k - i = (k - (i + 1)) + 1 := by omega
        simp only [this, List.getElem_cons_succ]
      · rw [dif_neg h, dif_neg (by simp only [List.length_cons]; omega)]

/-- A store's byte reads as written, whatever the free values are. -/
theorem Memory.read_of_get? {m : Memory} {i : Nat} {b : Byte} (h : m.get? i = some b) (boots : Nat) (store : Store) :
    m.read boots store i = b := by
  simp [Memory.read, h]

/-- The stores are in canonical form after reset, for every configuration. -/
theorem State.resetWith_stores_wf (c : Config) : (State.resetWith c).txBuf.wf = true ∧
    (State.resetWith c).rxBuf.wf = true ∧ (State.resetWith c).ringMem.wf = true :=
  ⟨rfl, rfl, rfl⟩

end Sys2Proof.Machine
end

