-- ==== Sys2Proof/Laws/Ring.lean ====
section
/-! SUPPORT. Ring arithmetic (43_ring_buffer.md R210): masking with `C - 1` is reduction modulo `C`, and what the loops
of R211 and R212 read and write. -/

namespace Sys2Proof.Machine

theorem ringCaps_pos {C : Nat} (h : C ∈ Config.ringCaps) : 2 ≤ C ∧ C ≤ 256 := by
  simp only [Config.ringCaps, List.mem_cons, List.not_mem_nil, or_false] at h
  omega

/-- Masking with a power of two less one is reduction modulo the power. -/
theorem land_ringMask {C : Nat} (h : C ∈ Config.ringCaps) (n : Nat) : n &&& (C - 1) = n % C := by
  have key : ∀ k : Nat, n &&& (2 ^ k - 1) = n % 2 ^ k := fun k => Nat.and_two_pow_sub_one_eq_mod n k
  simp only [Config.ringCaps, List.mem_cons, List.not_mem_nil, or_false] at h
  rcases h with rfl | rfl | rfl | rfl | rfl | rfl | rfl | rfl
  · exact key 1
  · exact key 2
  · exact key 3
  · exact key 4
  · exact key 5
  · exact key 6
  · exact key 7
  · exact key 8

/-- A ring index moved by less than the capacity is another index. -/
theorem add_mod_ne {a k C : Nat} (ha : a < C) (hk : 0 < k) (hkC : k < C) : (a + k) % C ≠ a := by
  by_cases h : a + k < C
  · rw [Nat.mod_eq_of_lt h]; omega
  · rw [Nat.mod_eq_sub_mod (by omega), Nat.mod_eq_of_lt (by omega)]; omega

theorem State.ringNext_eq {s : State} (h : s.cfg.ringCap ∈ Config.ringCaps) (i : Nat) :
    s.ringNext i = (i + 1) % s.cfg.ringCap :=
  land_ringMask h _

theorem State.occ_eq {s : State} (h : s.cfg.ringCap ∈ Config.ringCaps) :
    s.occ = (s.ringWr + s.cfg.ringCap - s.ringRd) % s.cfg.ringCap :=
  land_ringMask h _

theorem State.occ_lt {s : State} (h : s.cfg.ringCap ∈ Config.ringCaps) : s.occ < s.cfg.ringCap := by
  rw [State.occ_eq h]
  exact Nat.mod_lt _ (by have := ringCaps_pos h; omega)

theorem State.ringNext_lt {s : State} (h : s.cfg.ringCap ∈ Config.ringCaps) (i : Nat) : s.ringNext i < s.cfg.ringCap := by
  rw [State.ringNext_eq h]
  exact Nat.mod_lt _ (by have := ringCaps_pos h; omega)

/-- Advancing `n` times is adding `n` modulo the capacity, from an index of the ring. -/
theorem State.ringAdvance_eq {s : State} (h : s.cfg.ringCap ∈ Config.ringCaps) {i : Nat} (hi : i < s.cfg.ringCap) (n : Nat) :
    s.ringAdvance i n = (i + n) % s.cfg.ringCap := by
  induction n generalizing i with
  | zero => rw [State.ringAdvance, Nat.add_zero, Nat.mod_eq_of_lt hi]
  | succ n ih =>
    rw [State.ringAdvance, ih (State.ringNext_lt h i), State.ringNext_eq h, Nat.mod_add_mod]
    congr 1; omega

@[simp] theorem State.ringReadAll_length (s : State) (i n : Nat) : (s.ringReadAll i n).length = n := by
  induction n generalizing i with
  | zero => rfl
  | succ n ih => simp [State.ringReadAll, ih]

/-- The bytes R212's loop reads. -/
theorem State.ringReadAll_eq {s : State} (h : s.cfg.ringCap ∈ Config.ringCaps) {i : Nat} (hi : i < s.cfg.ringCap) (n : Nat) :
    s.ringReadAll i n = (List.range n).map fun k => s.ringRead ((i + k) % s.cfg.ringCap) := by
  induction n generalizing i with
  | zero => rfl
  | succ n ih =>
    rw [State.ringReadAll, ih (State.ringNext_lt h i), List.range_succ_eq_map, List.map_cons, List.map_map,
      State.ringNext_eq h]
    congr 1
    · rw [Nat.add_zero, Nat.mod_eq_of_lt hi]
    · apply List.map_congr_left
      intro k _
      simp only [Function.comp, Nat.mod_add_mod]
      congr 2; omega

/-- R211's loop writes the ring store and its write index only. -/
theorem State.ringPutAll_eq (s : State) (bs : List Byte) :
    s.ringPutAll bs = { s with ringMem := (s.ringPutAll bs).ringMem, ringWr := (s.ringPutAll bs).ringWr } := by
  induction bs generalizing s with
  | nil => rfl
  | cons b bs ih => rw [State.ringPutAll]; rw [ih (s.ringPut b)]; rfl

theorem State.ringPutAll_ringWr {s : State} (h : s.cfg.ringCap ∈ Config.ringCaps) (hw : s.ringWr < s.cfg.ringCap)
    (bs : List Byte) : (s.ringPutAll bs).ringWr = (s.ringWr + bs.length) % s.cfg.ringCap := by
  induction bs generalizing s with
  | nil => simp [State.ringPutAll, Nat.mod_eq_of_lt hw]
  | cons b bs ih =>
    have hc : (s.ringPut b).cfg = s.cfg := rfl
    have hn : (s.ringPut b).ringWr = s.ringNext s.ringWr := rfl
    rw [State.ringPutAll, ih (by rw [hc]; exact h) (by rw [hc, hn]; exact State.ringNext_lt h _), hc, hn,
      State.ringNext_eq h, Nat.mod_add_mod, List.length_cons]
    congr 1; omega

theorem State.ringPutAll_wf {s : State} (h : s.ringMem.wf = true) (bs : List Byte) :
    (s.ringPutAll bs).ringMem.wf = true := by
  induction bs generalizing s with
  | nil => exact h
  | cons b bs ih => exact ih (s := s.ringPut b) (Memory.set_wf _ _ _ h)

theorem State.ringPutAll_fits {s : State} (h : s.cfg.ringCap ∈ Config.ringCaps) (hw : s.ringWr < s.cfg.ringCap)
    (hm : s.ringMem.fits s.cfg.ringCap = true) (bs : List Byte) :
    (s.ringPutAll bs).ringMem.fits s.cfg.ringCap = true := by
  induction bs generalizing s with
  | nil => exact hm
  | cons b bs ih =>
    exact ih (s := s.ringPut b) h (State.ringNext_lt h _) (Memory.set_fits _ _ hw hm)

/-- What R211's loop leaves in the store: the bytes at successive indices modulo the capacity, as long as they do not
overtake themselves; every other index as before. -/
theorem State.get?_ringPutAll {s : State} (h : s.cfg.ringCap ∈ Config.ringCaps) (hw : s.ringWr < s.cfg.ringCap)
    (bs : List Byte) (hl : bs.length ≤ s.cfg.ringCap) (k : Nat) (hk : k < s.cfg.ringCap) :
    (s.ringPutAll bs).ringMem.get? ((s.ringWr + k) % s.cfg.ringCap) =
      if hb : k < bs.length then some bs[k] else s.ringMem.get? ((s.ringWr + k) % s.cfg.ringCap) := by
  induction bs generalizing s k with
  | nil => simp [State.ringPutAll]
  | cons b bs ih =>
    have hC := ringCaps_pos h
    have hc : (s.ringPut b).cfg = s.cfg := rfl
    have hn : (s.ringPut b).ringWr = (s.ringWr + 1) % s.cfg.ringCap := State.ringNext_eq h _
    have hm : (s.ringPut b).ringMem = s.ringMem.set s.ringWr b := rfl
    rw [State.ringPutAll]
    simp only [List.length_cons] at hl
    cases k with
    | zero =>
      have key := ih (s := s.ringPut b) h (State.ringNext_lt h _) (by rw [hc]; omega) (s.cfg.ringCap - 1) (by rw [hc]; omega)
      have e : ((s.ringPut b).ringWr + (s.cfg.ringCap - 1)) % s.cfg.ringCap = s.ringWr := by
        rw [hn, Nat.mod_add_mod, show s.ringWr + 1 + (s.cfg.ringCap - 1) = s.ringWr + s.cfg.ringCap by omega,
          Nat.add_mod_right, Nat.mod_eq_of_lt hw]
      rw [hc, e, dif_neg (by omega), hm, Memory.get?_set_self] at key
      rw [Nat.add_zero, Nat.mod_eq_of_lt hw, key]
      simp
    | succ k =>
      have key := ih (s := s.ringPut b) h (State.ringNext_lt h _) (by rw [hc]; omega) k (by rw [hc]; omega)
      have e : ((s.ringPut b).ringWr + k) % s.cfg.ringCap = (s.ringWr + (k + 1)) % s.cfg.ringCap := by
        rw [hn, Nat.mod_add_mod]; congr 1; omega
      rw [hc, e] at key
      rw [key]
      by_cases hb : k < bs.length
      · rw [dif_pos hb, dif_pos (by simp only [List.length_cons]; omega)]; simp
      · rw [dif_neg hb, dif_neg (by simp only [List.length_cons]; omega), hm, Memory.get?_set_of_ne]
        intro he
        exact add_mod_ne hw (Nat.succ_pos k) hk he

end Sys2Proof.Machine
end

