-- ==== Sys2Proof/Laws/State.lean ====
section
/-! SUPPORT. One lemma per field of State per named update: what the update leaves in the field. -/

namespace Sys2Proof.Machine

variable (s : State)

/-! ### `State.emit` -/

@[simp] theorem State.emit_cfg (o : Output) : (s.emit o).cfg = s.cfg := rfl
@[simp] theorem State.emit_busState (o : Output) : (s.emit o).busState = s.busState := rfl
@[simp] theorem State.emit_busAddr (o : Output) : (s.emit o).busAddr = s.busAddr := rfl
@[simp] theorem State.emit_busCmd (o : Output) : (s.emit o).busCmd = s.busCmd := rfl
@[simp] theorem State.emit_busDest (o : Output) : (s.emit o).busDest = s.busDest := rfl
@[simp] theorem State.emit_busEvt (o : Output) : (s.emit o).busEvt = s.busEvt := rfl
@[simp] theorem State.emit_busHi (o : Output) : (s.emit o).busHi = s.busHi := rfl
@[simp] theorem State.emit_txState (o : Output) : (s.emit o).txState = s.txState := rfl
@[simp] theorem State.emit_txBusy (o : Output) : (s.emit o).txBusy = s.txBusy := rfl
@[simp] theorem State.emit_txBuf (o : Output) : (s.emit o).txBuf = s.txBuf := rfl
@[simp] theorem State.emit_txLen (o : Output) : (s.emit o).txLen = s.txLen := rfl
@[simp] theorem State.emit_txSent (o : Output) : (s.emit o).txSent = s.txSent := rfl
@[simp] theorem State.emit_txBlIe (o : Output) : (s.emit o).txBlIe = s.txBlIe := rfl
@[simp] theorem State.emit_txCIe (o : Output) : (s.emit o).txCIe = s.txCIe := rfl
@[simp] theorem State.emit_rxState (o : Output) : (s.emit o).rxState = s.rxState := rfl
@[simp] theorem State.emit_rxBuf (o : Output) : (s.emit o).rxBuf = s.rxBuf := rfl
@[simp] theorem State.emit_rxLen (o : Output) : (s.emit o).rxLen = s.rxLen := rfl
@[simp] theorem State.emit_rxBlock (o : Output) : (s.emit o).rxBlock = s.rxBlock := rfl
@[simp] theorem State.emit_rxByteIe (o : Output) : (s.emit o).rxByteIe = s.rxByteIe := rfl
@[simp] theorem State.emit_rxEofIe (o : Output) : (s.emit o).rxEofIe = s.rxEofIe := rfl
@[simp] theorem State.emit_rxValid (o : Output) : (s.emit o).rxValid = s.rxValid := rfl
@[simp] theorem State.emit_ringMem (o : Output) : (s.emit o).ringMem = s.ringMem := rfl
@[simp] theorem State.emit_ringRd (o : Output) : (s.emit o).ringRd = s.ringRd := rfl
@[simp] theorem State.emit_ringWr (o : Output) : (s.emit o).ringWr = s.ringWr := rfl
@[simp] theorem State.emit_faultCode (o : Output) : (s.emit o).faultCode = s.faultCode := rfl
@[simp] theorem State.emit_faultInfo (o : Output) : (s.emit o).faultInfo = s.faultInfo := rfl
@[simp] theorem State.emit_trace (o : Output) : (s.emit o).trace = s.trace ++ [o] := rfl
@[simp] theorem State.emit_eventMask (o : Output) : (s.emit o).eventMask = s.eventMask := rfl
@[simp] theorem State.emit_pmCount (o : Output) : (s.emit o).pmCount = s.pmCount := rfl
@[simp] theorem State.emit_asleep (o : Output) : (s.emit o).asleep = s.asleep := rfl
@[simp] theorem State.emit_hostPort (o : Output) : (s.emit o).hostPort = s.hostPort := rfl
@[simp] theorem State.emit_busPort (o : Output) : (s.emit o).busPort = s.busPort := rfl
@[simp] theorem State.emit_txPort (o : Output) : (s.emit o).txPort = s.txPort := rfl
@[simp] theorem State.emit_rxPort (o : Output) : (s.emit o).rxPort = s.rxPort := rfl
@[simp] theorem State.emit_schedule (o : Output) : (s.emit o).schedule = s.schedule := rfl
@[simp] theorem State.emit_hostHeld (o : Output) : (s.emit o).hostHeld = s.hostHeld := rfl
@[simp] theorem State.emit_draws (o : Output) : (s.emit o).draws = s.draws := rfl
@[simp] theorem State.emit_boots (o : Output) : (s.emit o).boots = s.boots := rfl

/-! ### `State.halt` -/

@[simp] theorem State.halt_cfg (c : FaultCode) (info : Half) : (s.halt c info).cfg = s.cfg := rfl
@[simp] theorem State.halt_busState (c : FaultCode) (info : Half) : (s.halt c info).busState = s.busState := rfl
@[simp] theorem State.halt_busAddr (c : FaultCode) (info : Half) : (s.halt c info).busAddr = s.busAddr := rfl
@[simp] theorem State.halt_busCmd (c : FaultCode) (info : Half) : (s.halt c info).busCmd = s.busCmd := rfl
@[simp] theorem State.halt_busDest (c : FaultCode) (info : Half) : (s.halt c info).busDest = s.busDest := rfl
@[simp] theorem State.halt_busEvt (c : FaultCode) (info : Half) : (s.halt c info).busEvt = s.busEvt := rfl
@[simp] theorem State.halt_busHi (c : FaultCode) (info : Half) : (s.halt c info).busHi = s.busHi := rfl
@[simp] theorem State.halt_txState (c : FaultCode) (info : Half) : (s.halt c info).txState = s.txState := rfl
@[simp] theorem State.halt_txBusy (c : FaultCode) (info : Half) : (s.halt c info).txBusy = s.txBusy := rfl
@[simp] theorem State.halt_txBuf (c : FaultCode) (info : Half) : (s.halt c info).txBuf = s.txBuf := rfl
@[simp] theorem State.halt_txLen (c : FaultCode) (info : Half) : (s.halt c info).txLen = s.txLen := rfl
@[simp] theorem State.halt_txSent (c : FaultCode) (info : Half) : (s.halt c info).txSent = s.txSent := rfl
@[simp] theorem State.halt_txBlIe (c : FaultCode) (info : Half) : (s.halt c info).txBlIe = s.txBlIe := rfl
@[simp] theorem State.halt_txCIe (c : FaultCode) (info : Half) : (s.halt c info).txCIe = s.txCIe := rfl
@[simp] theorem State.halt_rxState (c : FaultCode) (info : Half) : (s.halt c info).rxState = s.rxState := rfl
@[simp] theorem State.halt_rxBuf (c : FaultCode) (info : Half) : (s.halt c info).rxBuf = s.rxBuf := rfl
@[simp] theorem State.halt_rxLen (c : FaultCode) (info : Half) : (s.halt c info).rxLen = s.rxLen := rfl
@[simp] theorem State.halt_rxBlock (c : FaultCode) (info : Half) : (s.halt c info).rxBlock = s.rxBlock := rfl
@[simp] theorem State.halt_rxByteIe (c : FaultCode) (info : Half) : (s.halt c info).rxByteIe = s.rxByteIe := rfl
@[simp] theorem State.halt_rxEofIe (c : FaultCode) (info : Half) : (s.halt c info).rxEofIe = s.rxEofIe := rfl
@[simp] theorem State.halt_rxValid (c : FaultCode) (info : Half) : (s.halt c info).rxValid = s.rxValid := rfl
@[simp] theorem State.halt_ringMem (c : FaultCode) (info : Half) : (s.halt c info).ringMem = s.ringMem := rfl
@[simp] theorem State.halt_ringRd (c : FaultCode) (info : Half) : (s.halt c info).ringRd = s.ringRd := rfl
@[simp] theorem State.halt_ringWr (c : FaultCode) (info : Half) : (s.halt c info).ringWr = s.ringWr := rfl
@[simp] theorem State.halt_faultCode (c : FaultCode) (info : Half) : (s.halt c info).faultCode = c.number := rfl
@[simp] theorem State.halt_faultInfo (c : FaultCode) (info : Half) : (s.halt c info).faultInfo = info := rfl
@[simp] theorem State.halt_trace (c : FaultCode) (info : Half) : (s.halt c info).trace = s.trace := rfl
@[simp] theorem State.halt_eventMask (c : FaultCode) (info : Half) : (s.halt c info).eventMask = s.eventMask := rfl
@[simp] theorem State.halt_pmCount (c : FaultCode) (info : Half) : (s.halt c info).pmCount = s.pmCount := rfl
@[simp] theorem State.halt_asleep (c : FaultCode) (info : Half) : (s.halt c info).asleep = s.asleep := rfl
@[simp] theorem State.halt_hostPort (c : FaultCode) (info : Half) : (s.halt c info).hostPort = s.hostPort := rfl
@[simp] theorem State.halt_busPort (c : FaultCode) (info : Half) : (s.halt c info).busPort = s.busPort := rfl
@[simp] theorem State.halt_txPort (c : FaultCode) (info : Half) : (s.halt c info).txPort = s.txPort := rfl
@[simp] theorem State.halt_rxPort (c : FaultCode) (info : Half) : (s.halt c info).rxPort = s.rxPort := rfl
@[simp] theorem State.halt_schedule (c : FaultCode) (info : Half) : (s.halt c info).schedule = s.schedule := rfl
@[simp] theorem State.halt_hostHeld (c : FaultCode) (info : Half) : (s.halt c info).hostHeld = s.hostHeld := rfl
@[simp] theorem State.halt_draws (c : FaultCode) (info : Half) : (s.halt c info).draws = s.draws := rfl
@[simp] theorem State.halt_boots (c : FaultCode) (info : Half) : (s.halt c info).boots = s.boots := rfl

/-! ### `State.hold` -/

@[simp] theorem State.hold_cfg : (s.hold).cfg = s.cfg := rfl
@[simp] theorem State.hold_busState : (s.hold).busState = s.busState := rfl
@[simp] theorem State.hold_busAddr : (s.hold).busAddr = s.busAddr := rfl
@[simp] theorem State.hold_busCmd : (s.hold).busCmd = s.busCmd := rfl
@[simp] theorem State.hold_busDest : (s.hold).busDest = s.busDest := rfl
@[simp] theorem State.hold_busEvt : (s.hold).busEvt = s.busEvt := rfl
@[simp] theorem State.hold_busHi : (s.hold).busHi = s.busHi := rfl
@[simp] theorem State.hold_txState : (s.hold).txState = s.txState := rfl
@[simp] theorem State.hold_txBusy : (s.hold).txBusy = s.txBusy := rfl
@[simp] theorem State.hold_txBuf : (s.hold).txBuf = s.txBuf := rfl
@[simp] theorem State.hold_txLen : (s.hold).txLen = s.txLen := rfl
@[simp] theorem State.hold_txSent : (s.hold).txSent = s.txSent := rfl
@[simp] theorem State.hold_txBlIe : (s.hold).txBlIe = s.txBlIe := rfl
@[simp] theorem State.hold_txCIe : (s.hold).txCIe = s.txCIe := rfl
@[simp] theorem State.hold_rxState : (s.hold).rxState = s.rxState := rfl
@[simp] theorem State.hold_rxBuf : (s.hold).rxBuf = s.rxBuf := rfl
@[simp] theorem State.hold_rxLen : (s.hold).rxLen = s.rxLen := rfl
@[simp] theorem State.hold_rxBlock : (s.hold).rxBlock = s.rxBlock := rfl
@[simp] theorem State.hold_rxByteIe : (s.hold).rxByteIe = s.rxByteIe := rfl
@[simp] theorem State.hold_rxEofIe : (s.hold).rxEofIe = s.rxEofIe := rfl
@[simp] theorem State.hold_rxValid : (s.hold).rxValid = s.rxValid := rfl
@[simp] theorem State.hold_ringMem : (s.hold).ringMem = s.ringMem := rfl
@[simp] theorem State.hold_ringRd : (s.hold).ringRd = s.ringRd := rfl
@[simp] theorem State.hold_ringWr : (s.hold).ringWr = s.ringWr := rfl
@[simp] theorem State.hold_faultCode : (s.hold).faultCode = s.faultCode := rfl
@[simp] theorem State.hold_faultInfo : (s.hold).faultInfo = s.faultInfo := rfl
@[simp] theorem State.hold_trace : (s.hold).trace = s.trace := rfl
@[simp] theorem State.hold_eventMask : (s.hold).eventMask = s.eventMask := rfl
@[simp] theorem State.hold_pmCount : (s.hold).pmCount = s.pmCount := rfl
@[simp] theorem State.hold_asleep : (s.hold).asleep = s.asleep := rfl
@[simp] theorem State.hold_hostPort : (s.hold).hostPort = s.hostPort := rfl
@[simp] theorem State.hold_busPort : (s.hold).busPort = s.busPort := rfl
@[simp] theorem State.hold_txPort : (s.hold).txPort = s.txPort := rfl
@[simp] theorem State.hold_rxPort : (s.hold).rxPort = s.rxPort := rfl
@[simp] theorem State.hold_schedule : (s.hold).schedule = s.schedule := rfl
@[simp] theorem State.hold_hostHeld : (s.hold).hostHeld = true := rfl
@[simp] theorem State.hold_draws : (s.hold).draws = s.draws := rfl
@[simp] theorem State.hold_boots : (s.hold).boots = s.boots := rfl

/-! ### `State.ringPut` -/

@[simp] theorem State.ringPut_cfg (b : Byte) : (s.ringPut b).cfg = s.cfg := rfl
@[simp] theorem State.ringPut_busState (b : Byte) : (s.ringPut b).busState = s.busState := rfl
@[simp] theorem State.ringPut_busAddr (b : Byte) : (s.ringPut b).busAddr = s.busAddr := rfl
@[simp] theorem State.ringPut_busCmd (b : Byte) : (s.ringPut b).busCmd = s.busCmd := rfl
@[simp] theorem State.ringPut_busDest (b : Byte) : (s.ringPut b).busDest = s.busDest := rfl
@[simp] theorem State.ringPut_busEvt (b : Byte) : (s.ringPut b).busEvt = s.busEvt := rfl
@[simp] theorem State.ringPut_busHi (b : Byte) : (s.ringPut b).busHi = s.busHi := rfl
@[simp] theorem State.ringPut_txState (b : Byte) : (s.ringPut b).txState = s.txState := rfl
@[simp] theorem State.ringPut_txBusy (b : Byte) : (s.ringPut b).txBusy = s.txBusy := rfl
@[simp] theorem State.ringPut_txBuf (b : Byte) : (s.ringPut b).txBuf = s.txBuf := rfl
@[simp] theorem State.ringPut_txLen (b : Byte) : (s.ringPut b).txLen = s.txLen := rfl
@[simp] theorem State.ringPut_txSent (b : Byte) : (s.ringPut b).txSent = s.txSent := rfl
@[simp] theorem State.ringPut_txBlIe (b : Byte) : (s.ringPut b).txBlIe = s.txBlIe := rfl
@[simp] theorem State.ringPut_txCIe (b : Byte) : (s.ringPut b).txCIe = s.txCIe := rfl
@[simp] theorem State.ringPut_rxState (b : Byte) : (s.ringPut b).rxState = s.rxState := rfl
@[simp] theorem State.ringPut_rxBuf (b : Byte) : (s.ringPut b).rxBuf = s.rxBuf := rfl
@[simp] theorem State.ringPut_rxLen (b : Byte) : (s.ringPut b).rxLen = s.rxLen := rfl
@[simp] theorem State.ringPut_rxBlock (b : Byte) : (s.ringPut b).rxBlock = s.rxBlock := rfl
@[simp] theorem State.ringPut_rxByteIe (b : Byte) : (s.ringPut b).rxByteIe = s.rxByteIe := rfl
@[simp] theorem State.ringPut_rxEofIe (b : Byte) : (s.ringPut b).rxEofIe = s.rxEofIe := rfl
@[simp] theorem State.ringPut_rxValid (b : Byte) : (s.ringPut b).rxValid = s.rxValid := rfl
@[simp] theorem State.ringPut_ringMem (b : Byte) : (s.ringPut b).ringMem = s.ringMem.set s.ringWr b := rfl
@[simp] theorem State.ringPut_ringRd (b : Byte) : (s.ringPut b).ringRd = s.ringRd := rfl
@[simp] theorem State.ringPut_ringWr (b : Byte) : (s.ringPut b).ringWr = s.ringNext s.ringWr := rfl
@[simp] theorem State.ringPut_faultCode (b : Byte) : (s.ringPut b).faultCode = s.faultCode := rfl
@[simp] theorem State.ringPut_faultInfo (b : Byte) : (s.ringPut b).faultInfo = s.faultInfo := rfl
@[simp] theorem State.ringPut_trace (b : Byte) : (s.ringPut b).trace = s.trace := rfl
@[simp] theorem State.ringPut_eventMask (b : Byte) : (s.ringPut b).eventMask = s.eventMask := rfl
@[simp] theorem State.ringPut_pmCount (b : Byte) : (s.ringPut b).pmCount = s.pmCount := rfl
@[simp] theorem State.ringPut_asleep (b : Byte) : (s.ringPut b).asleep = s.asleep := rfl
@[simp] theorem State.ringPut_hostPort (b : Byte) : (s.ringPut b).hostPort = s.hostPort := rfl
@[simp] theorem State.ringPut_busPort (b : Byte) : (s.ringPut b).busPort = s.busPort := rfl
@[simp] theorem State.ringPut_txPort (b : Byte) : (s.ringPut b).txPort = s.txPort := rfl
@[simp] theorem State.ringPut_rxPort (b : Byte) : (s.ringPut b).rxPort = s.rxPort := rfl
@[simp] theorem State.ringPut_schedule (b : Byte) : (s.ringPut b).schedule = s.schedule := rfl
@[simp] theorem State.ringPut_hostHeld (b : Byte) : (s.ringPut b).hostHeld = s.hostHeld := rfl
@[simp] theorem State.ringPut_draws (b : Byte) : (s.ringPut b).draws = s.draws := rfl
@[simp] theorem State.ringPut_boots (b : Byte) : (s.ringPut b).boots = s.boots := rfl

/-! ### `State.setBlockCount` -/

@[simp] theorem State.setBlockCount_cfg (l n : Nat) : (s.setBlockCount l n).cfg = s.cfg := rfl
@[simp] theorem State.setBlockCount_busState (l n : Nat) : (s.setBlockCount l n).busState = s.busState := rfl
@[simp] theorem State.setBlockCount_busAddr (l n : Nat) : (s.setBlockCount l n).busAddr = s.busAddr := rfl
@[simp] theorem State.setBlockCount_busCmd (l n : Nat) : (s.setBlockCount l n).busCmd = s.busCmd := rfl
@[simp] theorem State.setBlockCount_busDest (l n : Nat) : (s.setBlockCount l n).busDest = s.busDest := rfl
@[simp] theorem State.setBlockCount_busEvt (l n : Nat) : (s.setBlockCount l n).busEvt = s.busEvt := rfl
@[simp] theorem State.setBlockCount_busHi (l n : Nat) : (s.setBlockCount l n).busHi = s.busHi := rfl
@[simp] theorem State.setBlockCount_txState (l n : Nat) : (s.setBlockCount l n).txState = s.txState := rfl
@[simp] theorem State.setBlockCount_txBusy (l n : Nat) : (s.setBlockCount l n).txBusy = s.txBusy := rfl
@[simp] theorem State.setBlockCount_txBuf (l n : Nat) : (s.setBlockCount l n).txBuf = s.txBuf := rfl
@[simp] theorem State.setBlockCount_txLen (l n : Nat) : (s.setBlockCount l n).txLen = s.txLen := rfl
@[simp] theorem State.setBlockCount_txSent (l n : Nat) : (s.setBlockCount l n).txSent = s.txSent := rfl
@[simp] theorem State.setBlockCount_txBlIe (l n : Nat) : (s.setBlockCount l n).txBlIe = s.txBlIe := rfl
@[simp] theorem State.setBlockCount_txCIe (l n : Nat) : (s.setBlockCount l n).txCIe = s.txCIe := rfl
@[simp] theorem State.setBlockCount_rxState (l n : Nat) : (s.setBlockCount l n).rxState = s.rxState := rfl
@[simp] theorem State.setBlockCount_rxBuf (l n : Nat) : (s.setBlockCount l n).rxBuf = s.rxBuf := rfl
@[simp] theorem State.setBlockCount_rxLen (l n : Nat) : (s.setBlockCount l n).rxLen = s.rxLen := rfl
@[simp] theorem State.setBlockCount_rxBlock (l n : Nat) : (s.setBlockCount l n).rxBlock = s.rxBlock := rfl
@[simp] theorem State.setBlockCount_rxByteIe (l n : Nat) : (s.setBlockCount l n).rxByteIe = s.rxByteIe := rfl
@[simp] theorem State.setBlockCount_rxEofIe (l n : Nat) : (s.setBlockCount l n).rxEofIe = s.rxEofIe := rfl
@[simp] theorem State.setBlockCount_rxValid (l n : Nat) : (s.setBlockCount l n).rxValid = s.rxValid := rfl
@[simp] theorem State.setBlockCount_ringMem (l n : Nat) : (s.setBlockCount l n).ringMem = s.ringMem := rfl
@[simp] theorem State.setBlockCount_ringRd (l n : Nat) : (s.setBlockCount l n).ringRd = s.ringRd := rfl
@[simp] theorem State.setBlockCount_ringWr (l n : Nat) : (s.setBlockCount l n).ringWr = s.ringWr := rfl
@[simp] theorem State.setBlockCount_faultCode (l n : Nat) : (s.setBlockCount l n).faultCode = s.faultCode := rfl
@[simp] theorem State.setBlockCount_faultInfo (l n : Nat) : (s.setBlockCount l n).faultInfo = s.faultInfo := rfl
@[simp] theorem State.setBlockCount_trace (l n : Nat) : (s.setBlockCount l n).trace = s.trace := rfl
@[simp] theorem State.setBlockCount_eventMask (l n : Nat) : (s.setBlockCount l n).eventMask = s.eventMask := rfl
@[simp] theorem State.setBlockCount_pmCount (l n : Nat) : (s.setBlockCount l n).pmCount = s.pmCount.set l n := rfl
@[simp] theorem State.setBlockCount_asleep (l n : Nat) : (s.setBlockCount l n).asleep = s.asleep := rfl
@[simp] theorem State.setBlockCount_hostPort (l n : Nat) : (s.setBlockCount l n).hostPort = s.hostPort := rfl
@[simp] theorem State.setBlockCount_busPort (l n : Nat) : (s.setBlockCount l n).busPort = s.busPort := rfl
@[simp] theorem State.setBlockCount_txPort (l n : Nat) : (s.setBlockCount l n).txPort = s.txPort := rfl
@[simp] theorem State.setBlockCount_rxPort (l n : Nat) : (s.setBlockCount l n).rxPort = s.rxPort := rfl
@[simp] theorem State.setBlockCount_schedule (l n : Nat) : (s.setBlockCount l n).schedule = s.schedule := rfl
@[simp] theorem State.setBlockCount_hostHeld (l n : Nat) : (s.setBlockCount l n).hostHeld = s.hostHeld := rfl
@[simp] theorem State.setBlockCount_draws (l n : Nat) : (s.setBlockCount l n).draws = s.draws := rfl
@[simp] theorem State.setBlockCount_boots (l n : Nat) : (s.setBlockCount l n).boots = s.boots := rfl

/-! ### `State.postEvent` -/

@[simp] theorem State.postEvent_cfg (e : BitVec 5) : (s.postEvent e).cfg = s.cfg := rfl
@[simp] theorem State.postEvent_busState (e : BitVec 5) : (s.postEvent e).busState = s.busState := rfl
@[simp] theorem State.postEvent_busAddr (e : BitVec 5) : (s.postEvent e).busAddr = s.busAddr := rfl
@[simp] theorem State.postEvent_busCmd (e : BitVec 5) : (s.postEvent e).busCmd = s.busCmd := rfl
@[simp] theorem State.postEvent_busDest (e : BitVec 5) : (s.postEvent e).busDest = s.busDest := rfl
@[simp] theorem State.postEvent_busEvt (e : BitVec 5) : (s.postEvent e).busEvt = s.busEvt := rfl
@[simp] theorem State.postEvent_busHi (e : BitVec 5) : (s.postEvent e).busHi = s.busHi := rfl
@[simp] theorem State.postEvent_txState (e : BitVec 5) : (s.postEvent e).txState = s.txState := rfl
@[simp] theorem State.postEvent_txBusy (e : BitVec 5) : (s.postEvent e).txBusy = s.txBusy := rfl
@[simp] theorem State.postEvent_txBuf (e : BitVec 5) : (s.postEvent e).txBuf = s.txBuf := rfl
@[simp] theorem State.postEvent_txLen (e : BitVec 5) : (s.postEvent e).txLen = s.txLen := rfl
@[simp] theorem State.postEvent_txSent (e : BitVec 5) : (s.postEvent e).txSent = s.txSent := rfl
@[simp] theorem State.postEvent_txBlIe (e : BitVec 5) : (s.postEvent e).txBlIe = s.txBlIe := rfl
@[simp] theorem State.postEvent_txCIe (e : BitVec 5) : (s.postEvent e).txCIe = s.txCIe := rfl
@[simp] theorem State.postEvent_rxState (e : BitVec 5) : (s.postEvent e).rxState = s.rxState := rfl
@[simp] theorem State.postEvent_rxBuf (e : BitVec 5) : (s.postEvent e).rxBuf = s.rxBuf := rfl
@[simp] theorem State.postEvent_rxLen (e : BitVec 5) : (s.postEvent e).rxLen = s.rxLen := rfl
@[simp] theorem State.postEvent_rxBlock (e : BitVec 5) : (s.postEvent e).rxBlock = s.rxBlock := rfl
@[simp] theorem State.postEvent_rxByteIe (e : BitVec 5) : (s.postEvent e).rxByteIe = s.rxByteIe := rfl
@[simp] theorem State.postEvent_rxEofIe (e : BitVec 5) : (s.postEvent e).rxEofIe = s.rxEofIe := rfl
@[simp] theorem State.postEvent_rxValid (e : BitVec 5) : (s.postEvent e).rxValid = s.rxValid := rfl
@[simp] theorem State.postEvent_ringMem (e : BitVec 5) : (s.postEvent e).ringMem = s.ringMem := rfl
@[simp] theorem State.postEvent_ringRd (e : BitVec 5) : (s.postEvent e).ringRd = s.ringRd := rfl
@[simp] theorem State.postEvent_ringWr (e : BitVec 5) : (s.postEvent e).ringWr = s.ringWr := rfl
@[simp] theorem State.postEvent_faultCode (e : BitVec 5) : (s.postEvent e).faultCode = s.faultCode := rfl
@[simp] theorem State.postEvent_faultInfo (e : BitVec 5) : (s.postEvent e).faultInfo = s.faultInfo := rfl
@[simp] theorem State.postEvent_trace (e : BitVec 5) : (s.postEvent e).trace = s.trace := rfl
@[simp] theorem State.postEvent_eventMask (e : BitVec 5) : (s.postEvent e).eventMask = s.eventMask ||| eventBit e := rfl
@[simp] theorem State.postEvent_pmCount (e : BitVec 5) : (s.postEvent e).pmCount = s.pmCount := rfl
@[simp] theorem State.postEvent_asleep (e : BitVec 5) : (s.postEvent e).asleep = s.asleep := rfl
@[simp] theorem State.postEvent_hostPort (e : BitVec 5) : (s.postEvent e).hostPort = s.hostPort := rfl
@[simp] theorem State.postEvent_busPort (e : BitVec 5) : (s.postEvent e).busPort = s.busPort := rfl
@[simp] theorem State.postEvent_txPort (e : BitVec 5) : (s.postEvent e).txPort = s.txPort := rfl
@[simp] theorem State.postEvent_rxPort (e : BitVec 5) : (s.postEvent e).rxPort = s.rxPort := rfl
@[simp] theorem State.postEvent_schedule (e : BitVec 5) : (s.postEvent e).schedule = s.schedule := rfl
@[simp] theorem State.postEvent_hostHeld (e : BitVec 5) : (s.postEvent e).hostHeld = s.hostHeld := rfl
@[simp] theorem State.postEvent_draws (e : BitVec 5) : (s.postEvent e).draws = s.draws := rfl
@[simp] theorem State.postEvent_boots (e : BitVec 5) : (s.postEvent e).boots = s.boots := rfl

/-! ### `State.clearEvent` -/

@[simp] theorem State.clearEvent_cfg (e : BitVec 5) : (s.clearEvent e).cfg = s.cfg := rfl
@[simp] theorem State.clearEvent_busState (e : BitVec 5) : (s.clearEvent e).busState = s.busState := rfl
@[simp] theorem State.clearEvent_busAddr (e : BitVec 5) : (s.clearEvent e).busAddr = s.busAddr := rfl
@[simp] theorem State.clearEvent_busCmd (e : BitVec 5) : (s.clearEvent e).busCmd = s.busCmd := rfl
@[simp] theorem State.clearEvent_busDest (e : BitVec 5) : (s.clearEvent e).busDest = s.busDest := rfl
@[simp] theorem State.clearEvent_busEvt (e : BitVec 5) : (s.clearEvent e).busEvt = s.busEvt := rfl
@[simp] theorem State.clearEvent_busHi (e : BitVec 5) : (s.clearEvent e).busHi = s.busHi := rfl
@[simp] theorem State.clearEvent_txState (e : BitVec 5) : (s.clearEvent e).txState = s.txState := rfl
@[simp] theorem State.clearEvent_txBusy (e : BitVec 5) : (s.clearEvent e).txBusy = s.txBusy := rfl
@[simp] theorem State.clearEvent_txBuf (e : BitVec 5) : (s.clearEvent e).txBuf = s.txBuf := rfl
@[simp] theorem State.clearEvent_txLen (e : BitVec 5) : (s.clearEvent e).txLen = s.txLen := rfl
@[simp] theorem State.clearEvent_txSent (e : BitVec 5) : (s.clearEvent e).txSent = s.txSent := rfl
@[simp] theorem State.clearEvent_txBlIe (e : BitVec 5) : (s.clearEvent e).txBlIe = s.txBlIe := rfl
@[simp] theorem State.clearEvent_txCIe (e : BitVec 5) : (s.clearEvent e).txCIe = s.txCIe := rfl
@[simp] theorem State.clearEvent_rxState (e : BitVec 5) : (s.clearEvent e).rxState = s.rxState := rfl
@[simp] theorem State.clearEvent_rxBuf (e : BitVec 5) : (s.clearEvent e).rxBuf = s.rxBuf := rfl
@[simp] theorem State.clearEvent_rxLen (e : BitVec 5) : (s.clearEvent e).rxLen = s.rxLen := rfl
@[simp] theorem State.clearEvent_rxBlock (e : BitVec 5) : (s.clearEvent e).rxBlock = s.rxBlock := rfl
@[simp] theorem State.clearEvent_rxByteIe (e : BitVec 5) : (s.clearEvent e).rxByteIe = s.rxByteIe := rfl
@[simp] theorem State.clearEvent_rxEofIe (e : BitVec 5) : (s.clearEvent e).rxEofIe = s.rxEofIe := rfl
@[simp] theorem State.clearEvent_rxValid (e : BitVec 5) : (s.clearEvent e).rxValid = s.rxValid := rfl
@[simp] theorem State.clearEvent_ringMem (e : BitVec 5) : (s.clearEvent e).ringMem = s.ringMem := rfl
@[simp] theorem State.clearEvent_ringRd (e : BitVec 5) : (s.clearEvent e).ringRd = s.ringRd := rfl
@[simp] theorem State.clearEvent_ringWr (e : BitVec 5) : (s.clearEvent e).ringWr = s.ringWr := rfl
@[simp] theorem State.clearEvent_faultCode (e : BitVec 5) : (s.clearEvent e).faultCode = s.faultCode := rfl
@[simp] theorem State.clearEvent_faultInfo (e : BitVec 5) : (s.clearEvent e).faultInfo = s.faultInfo := rfl
@[simp] theorem State.clearEvent_trace (e : BitVec 5) : (s.clearEvent e).trace = s.trace := rfl
@[simp] theorem State.clearEvent_eventMask (e : BitVec 5) : (s.clearEvent e).eventMask = s.eventMask &&& ~~~(eventBit e) := rfl
@[simp] theorem State.clearEvent_pmCount (e : BitVec 5) : (s.clearEvent e).pmCount = s.pmCount := rfl
@[simp] theorem State.clearEvent_asleep (e : BitVec 5) : (s.clearEvent e).asleep = s.asleep := rfl
@[simp] theorem State.clearEvent_hostPort (e : BitVec 5) : (s.clearEvent e).hostPort = s.hostPort := rfl
@[simp] theorem State.clearEvent_busPort (e : BitVec 5) : (s.clearEvent e).busPort = s.busPort := rfl
@[simp] theorem State.clearEvent_txPort (e : BitVec 5) : (s.clearEvent e).txPort = s.txPort := rfl
@[simp] theorem State.clearEvent_rxPort (e : BitVec 5) : (s.clearEvent e).rxPort = s.rxPort := rfl
@[simp] theorem State.clearEvent_schedule (e : BitVec 5) : (s.clearEvent e).schedule = s.schedule := rfl
@[simp] theorem State.clearEvent_hostHeld (e : BitVec 5) : (s.clearEvent e).hostHeld = s.hostHeld := rfl
@[simp] theorem State.clearEvent_draws (e : BitVec 5) : (s.clearEvent e).draws = s.draws := rfl
@[simp] theorem State.clearEvent_boots (e : BitVec 5) : (s.clearEvent e).boots = s.boots := rfl

/-! ### `State.setPort` and `State.beginOperation` -/

@[simp] theorem State.setPort_cfg (p : Port) (ws : List Word) : (s.setPort p ws).cfg = s.cfg := by
  cases p <;> rfl
@[simp] theorem State.setPort_busState (p : Port) (ws : List Word) : (s.setPort p ws).busState = s.busState := by
  cases p <;> rfl
@[simp] theorem State.setPort_busAddr (p : Port) (ws : List Word) : (s.setPort p ws).busAddr = s.busAddr := by
  cases p <;> rfl
@[simp] theorem State.setPort_busCmd (p : Port) (ws : List Word) : (s.setPort p ws).busCmd = s.busCmd := by
  cases p <;> rfl
@[simp] theorem State.setPort_busDest (p : Port) (ws : List Word) : (s.setPort p ws).busDest = s.busDest := by
  cases p <;> rfl
@[simp] theorem State.setPort_busEvt (p : Port) (ws : List Word) : (s.setPort p ws).busEvt = s.busEvt := by
  cases p <;> rfl
@[simp] theorem State.setPort_busHi (p : Port) (ws : List Word) : (s.setPort p ws).busHi = s.busHi := by
  cases p <;> rfl
@[simp] theorem State.setPort_txState (p : Port) (ws : List Word) : (s.setPort p ws).txState = s.txState := by
  cases p <;> rfl
@[simp] theorem State.setPort_txBusy (p : Port) (ws : List Word) : (s.setPort p ws).txBusy = s.txBusy := by
  cases p <;> rfl
@[simp] theorem State.setPort_txBuf (p : Port) (ws : List Word) : (s.setPort p ws).txBuf = s.txBuf := by
  cases p <;> rfl
@[simp] theorem State.setPort_txLen (p : Port) (ws : List Word) : (s.setPort p ws).txLen = s.txLen := by
  cases p <;> rfl
@[simp] theorem State.setPort_txSent (p : Port) (ws : List Word) : (s.setPort p ws).txSent = s.txSent := by
  cases p <;> rfl
@[simp] theorem State.setPort_txBlIe (p : Port) (ws : List Word) : (s.setPort p ws).txBlIe = s.txBlIe := by
  cases p <;> rfl
@[simp] theorem State.setPort_txCIe (p : Port) (ws : List Word) : (s.setPort p ws).txCIe = s.txCIe := by
  cases p <;> rfl
@[simp] theorem State.setPort_rxState (p : Port) (ws : List Word) : (s.setPort p ws).rxState = s.rxState := by
  cases p <;> rfl
@[simp] theorem State.setPort_rxBuf (p : Port) (ws : List Word) : (s.setPort p ws).rxBuf = s.rxBuf := by
  cases p <;> rfl
@[simp] theorem State.setPort_rxLen (p : Port) (ws : List Word) : (s.setPort p ws).rxLen = s.rxLen := by
  cases p <;> rfl
@[simp] theorem State.setPort_rxBlock (p : Port) (ws : List Word) : (s.setPort p ws).rxBlock = s.rxBlock := by
  cases p <;> rfl
@[simp] theorem State.setPort_rxByteIe (p : Port) (ws : List Word) : (s.setPort p ws).rxByteIe = s.rxByteIe := by
  cases p <;> rfl
@[simp] theorem State.setPort_rxEofIe (p : Port) (ws : List Word) : (s.setPort p ws).rxEofIe = s.rxEofIe := by
  cases p <;> rfl
@[simp] theorem State.setPort_rxValid (p : Port) (ws : List Word) : (s.setPort p ws).rxValid = s.rxValid := by
  cases p <;> rfl
@[simp] theorem State.setPort_ringMem (p : Port) (ws : List Word) : (s.setPort p ws).ringMem = s.ringMem := by
  cases p <;> rfl
@[simp] theorem State.setPort_ringRd (p : Port) (ws : List Word) : (s.setPort p ws).ringRd = s.ringRd := by
  cases p <;> rfl
@[simp] theorem State.setPort_ringWr (p : Port) (ws : List Word) : (s.setPort p ws).ringWr = s.ringWr := by
  cases p <;> rfl
@[simp] theorem State.setPort_faultCode (p : Port) (ws : List Word) : (s.setPort p ws).faultCode = s.faultCode := by
  cases p <;> rfl
@[simp] theorem State.setPort_faultInfo (p : Port) (ws : List Word) : (s.setPort p ws).faultInfo = s.faultInfo := by
  cases p <;> rfl
@[simp] theorem State.setPort_trace (p : Port) (ws : List Word) : (s.setPort p ws).trace = s.trace := by
  cases p <;> rfl
@[simp] theorem State.setPort_eventMask (p : Port) (ws : List Word) : (s.setPort p ws).eventMask = s.eventMask := by
  cases p <;> rfl
@[simp] theorem State.setPort_pmCount (p : Port) (ws : List Word) : (s.setPort p ws).pmCount = s.pmCount := by
  cases p <;> rfl
@[simp] theorem State.setPort_asleep (p : Port) (ws : List Word) : (s.setPort p ws).asleep = s.asleep := by
  cases p <;> rfl
@[simp] theorem State.setPort_schedule (p : Port) (ws : List Word) : (s.setPort p ws).schedule = s.schedule := by
  cases p <;> rfl
@[simp] theorem State.setPort_hostHeld (p : Port) (ws : List Word) : (s.setPort p ws).hostHeld = s.hostHeld := by
  cases p <;> rfl
@[simp] theorem State.setPort_draws (p : Port) (ws : List Word) : (s.setPort p ws).draws = s.draws := by
  cases p <;> rfl
@[simp] theorem State.setPort_boots (p : Port) (ws : List Word) : (s.setPort p ws).boots = s.boots := by
  cases p <;> rfl

@[simp] theorem State.setPort_portWords_self (p : Port) (ws : List Word) : (s.setPort p ws).portWords p = ws := by
  cases p <;> rfl

theorem State.setPort_portWords_of_ne {p q : Port} (h : q ≠ p) (ws : List Word) :
    (s.setPort p ws).portWords q = s.portWords q := by
  cases p <;> cases q <;> first | rfl | exact absurd rfl h

@[simp] theorem State.beginOperation_cfg (p : Port) : (s.beginOperation p).cfg = s.cfg := by
  cases p <;> rfl
@[simp] theorem State.beginOperation_busState (p : Port) : (s.beginOperation p).busState = s.busState := by
  cases p <;> rfl
@[simp] theorem State.beginOperation_busAddr (p : Port) : (s.beginOperation p).busAddr = s.busAddr := by
  cases p <;> rfl
@[simp] theorem State.beginOperation_busCmd (p : Port) : (s.beginOperation p).busCmd = s.busCmd := by
  cases p <;> rfl
@[simp] theorem State.beginOperation_busDest (p : Port) : (s.beginOperation p).busDest = s.busDest := by
  cases p <;> rfl
@[simp] theorem State.beginOperation_busEvt (p : Port) : (s.beginOperation p).busEvt = s.busEvt := by
  cases p <;> rfl
@[simp] theorem State.beginOperation_busHi (p : Port) : (s.beginOperation p).busHi = s.busHi := by
  cases p <;> rfl
@[simp] theorem State.beginOperation_txState (p : Port) : (s.beginOperation p).txState = s.txState := by
  cases p <;> rfl
@[simp] theorem State.beginOperation_txBusy (p : Port) : (s.beginOperation p).txBusy = s.txBusy := by
  cases p <;> rfl
@[simp] theorem State.beginOperation_txBuf (p : Port) : (s.beginOperation p).txBuf = s.txBuf := by
  cases p <;> rfl
@[simp] theorem State.beginOperation_txLen (p : Port) : (s.beginOperation p).txLen = s.txLen := by
  cases p <;> rfl
@[simp] theorem State.beginOperation_txSent (p : Port) : (s.beginOperation p).txSent = s.txSent := by
  cases p <;> rfl
@[simp] theorem State.beginOperation_txBlIe (p : Port) : (s.beginOperation p).txBlIe = s.txBlIe := by
  cases p <;> rfl
@[simp] theorem State.beginOperation_txCIe (p : Port) : (s.beginOperation p).txCIe = s.txCIe := by
  cases p <;> rfl
@[simp] theorem State.beginOperation_rxState (p : Port) : (s.beginOperation p).rxState = s.rxState := by
  cases p <;> rfl
@[simp] theorem State.beginOperation_rxBuf (p : Port) : (s.beginOperation p).rxBuf = s.rxBuf := by
  cases p <;> rfl
@[simp] theorem State.beginOperation_rxLen (p : Port) : (s.beginOperation p).rxLen = s.rxLen := by
  cases p <;> rfl
@[simp] theorem State.beginOperation_rxBlock (p : Port) : (s.beginOperation p).rxBlock = s.rxBlock := by
  cases p <;> rfl
@[simp] theorem State.beginOperation_rxByteIe (p : Port) : (s.beginOperation p).rxByteIe = s.rxByteIe := by
  cases p <;> rfl
@[simp] theorem State.beginOperation_rxEofIe (p : Port) : (s.beginOperation p).rxEofIe = s.rxEofIe := by
  cases p <;> rfl
@[simp] theorem State.beginOperation_rxValid (p : Port) : (s.beginOperation p).rxValid = s.rxValid := by
  cases p <;> rfl
@[simp] theorem State.beginOperation_ringMem (p : Port) : (s.beginOperation p).ringMem = s.ringMem := by
  cases p <;> rfl
@[simp] theorem State.beginOperation_ringRd (p : Port) : (s.beginOperation p).ringRd = s.ringRd := by
  cases p <;> rfl
@[simp] theorem State.beginOperation_ringWr (p : Port) : (s.beginOperation p).ringWr = s.ringWr := by
  cases p <;> rfl
@[simp] theorem State.beginOperation_faultCode (p : Port) : (s.beginOperation p).faultCode = s.faultCode := by
  cases p <;> rfl
@[simp] theorem State.beginOperation_faultInfo (p : Port) : (s.beginOperation p).faultInfo = s.faultInfo := by
  cases p <;> rfl
@[simp] theorem State.beginOperation_trace (p : Port) : (s.beginOperation p).trace = s.trace := by
  cases p <;> rfl
@[simp] theorem State.beginOperation_eventMask (p : Port) : (s.beginOperation p).eventMask = s.eventMask := by
  cases p <;> rfl
@[simp] theorem State.beginOperation_pmCount (p : Port) : (s.beginOperation p).pmCount = s.pmCount := by
  cases p <;> rfl
@[simp] theorem State.beginOperation_asleep (p : Port) : (s.beginOperation p).asleep = s.asleep := by
  cases p <;> rfl
@[simp] theorem State.beginOperation_hostPort (p : Port) : (s.beginOperation p).hostPort = s.hostPort := by
  cases p <;> rfl
@[simp] theorem State.beginOperation_busPort (p : Port) : (s.beginOperation p).busPort = s.busPort := by
  cases p <;> rfl
@[simp] theorem State.beginOperation_txPort (p : Port) : (s.beginOperation p).txPort = s.txPort := by
  cases p <;> rfl
@[simp] theorem State.beginOperation_rxPort (p : Port) : (s.beginOperation p).rxPort = s.rxPort := by
  cases p <;> rfl
@[simp] theorem State.beginOperation_schedule (p : Port) : (s.beginOperation p).schedule = s.schedule := by
  cases p <;> rfl
@[simp] theorem State.beginOperation_draws (p : Port) : (s.beginOperation p).draws = s.draws := by
  cases p <;> rfl
@[simp] theorem State.beginOperation_boots (p : Port) : (s.beginOperation p).boots = s.boots := by
  cases p <;> rfl

end Sys2Proof.Machine
end

