-- ==== Sys2Proof/Laws/Ops.lean ====
section
/-! SUPPORT. What the shared operations can do, said once: performing and committing (00_scope.md R12), the well-formed
state taken apart (10_state.md R35 to R39), and the effects of the transmit and receive rules. -/

namespace Sys2Proof.Machine

/-! ### Performing an operation -/

theorem FaultCode.number_ne_zero (c : FaultCode) : c.number ≠ 0#8 := by
  cases c <;> decide

@[simp] theorem State.halt_halted (s : State) (c : FaultCode) (info : Half) : (s.halt c info).halted = true := by
  simp [State.halted, FaultCode.number_ne_zero]

theorem State.ready_iff (s : State) : s.ready = true ↔ s.halted = false ∧ s.wellFormed = true := by
  simp [State.ready]

theorem State.perform_of_halted {s : State} (h : s.halted = true) (e : Effect) : s.perform e = .fault .halted := by
  simp [State.perform, h]

theorem State.perform_of_ready {s : State} (h : s.ready = true) (e : Effect) : s.perform e = e.commit s := by
  obtain ⟨h1, h2⟩ := s.ready_iff.1 h
  simp [State.perform, h1, h2]

theorem State.perform_of_not_wellFormed {s : State} (h : s.halted = false) (hw : s.wellFormed = false) (e : Effect) :
    s.perform e = .refused .notWellFormed := by
  simp [State.perform, h, hw]

@[simp] theorem Effect.commit_done (s t : State) : (Effect.done t).commit s = .next t := rfl
@[simp] theorem Effect.commit_raise (s : State) (c : FaultCode) (info : Half) :
    (Effect.raise c info).commit s = .next (s.halt c info) := rfl
@[simp] theorem Effect.commit_hold (s : State) : Effect.hold.commit s = .next s.hold := rfl
@[simp] theorem Effect.commit_refuse (s : State) (r : Refusal) : (Effect.refuse r).commit s = .refused r := rfl
@[simp] theorem Effect.andThen_done (s : State) (f : State → Effect) : (Effect.done s).andThen f = f s := rfl
@[simp] theorem Effect.andThen_raise (c : FaultCode) (info : Half) (f : State → Effect) :
    (Effect.raise c info).andThen f = .raise c info := rfl
@[simp] theorem Effect.andThen_hold (f : State → Effect) : Effect.hold.andThen f = .hold := rfl
@[simp] theorem Effect.andThen_refuse (r : Refusal) (f : State → Effect) :
    (Effect.refuse r).andThen f = .refuse r := rfl

/-- Everything an effect that goes on to a second one can be. -/
theorem Effect.andThen_done_iff {e : Effect} {f : State → Effect} {t : State} :
    e.andThen f = .done t ↔ ∃ u, e = .done u ∧ f u = .done t := by
  cases e <;> simp

/-- Everything performing an operation can answer as a next state. -/
theorem State.perform_next {s t : State} {e : Effect} (h : s.perform e = .next t) :
    s.ready = true ∧
      (e = .done t ∨ (∃ c info, e = .raise c info ∧ t = s.halt c info) ∨ (e = .hold ∧ t = s.hold)) := by
  unfold State.perform at h
  split at h
  · cases h
  · rename_i h1
    split at h
    · rename_i h2
      refine ⟨by simp [State.ready, h1, h2], ?_⟩
      cases e with
      | done u => exact .inl (by simpa using h)
      | raise c info => exact .inr (.inl ⟨c, info, rfl, by simpa using h.symm⟩)
      | hold => exact .inr (.inr ⟨rfl, by simpa using h.symm⟩)
      | refuse r => cases h
    · cases h

/-! ### The step -/

theorem step_of_move {s : State} {m : Move} {rest : List Move} (hs : s.schedule = m :: rest) (hh : s.halted = false) :
    step s = State.takeMove { s with schedule := rest } m := by
  simp [step, State.moveOn, hs, hh]

/-- A port's move of an awake core takes the port's next operation. -/
theorem step_of_port {s : State} {p : Port} {rest : List Move} (hs : s.schedule = .port p :: rest)
    (hh : s.halted = false) (ha : s.asleep = none) : step s = State.runPort { s with schedule := rest } p := by
  rw [step_of_move hs hh, State.takeMove, ha]
  rfl

theorem State.runPort_of_op {s : State} {p : Port} {i : Instr} {rest : List Word}
    (hd : decode p (s.portWords p) = .op i rest) :
    s.runPort p = match exec i (s.beginOperation p) with
      | .next after => (s.beginOperation p).settle p rest after
      | .fault f => .fault f
      | .refused r => .refused r := by
  cases h : exec i (s.beginOperation p) <;> simp only [State.runPort, hd, h]

theorem State.runPort_of_illegal {s : State} {p : Port} {info : Half} {rest : List Word}
    (hd : decode p (s.portWords p) = .illegal info rest) :
    s.runPort p = .next ((s.halt .illegalOp info).setPort p rest) := by
  rw [State.runPort, hd]

/-- A held operation waits: the state is kept as it is (R256). -/
theorem State.settle_of_held {s after : State} {p : Port} {rest : List Word}
    (h : (p == .host && after.hostHeld) = true) : s.settle p rest after = .next after := by
  rw [State.settle, if_pos h]

/-- A faulted operation leaves the port (R257). -/
theorem State.settle_of_halted {s after : State} {p : Port} {rest : List Word}
    (hn : (p == .host && after.hostHeld) = false) (h : after.halted = true) :
    s.settle p rest after = .next (after.setPort p rest) := by
  rw [State.settle, if_neg (by simp [hn]), if_pos h]

/-- The outputs of a completed operation reach the environment, and its words leave the port. -/
theorem State.settle_of_completed {s after u : State} {p : Port} {rest : List Word} {os : List Output}
    (hn : (p == .host && after.hostHeld) = false) (h : after.halted = false) (ht : after.trace = s.trace ++ os)
    (hd : (after.setPort p rest).deliverAll os = .done u) : s.settle p rest after = .next u := by
  rw [State.settle, if_neg (by simp [hn]), if_neg (by simp [h]), ht, List.drop_left, hd]
  rfl

/-- An imbalance the arbiter finds discards the operation's effect. -/
theorem State.settle_of_imbalance {s after : State} {p : Port} {rest : List Word} {os : List Output} {c : FaultCode}
    {info : Half} (hn : (p == .host && after.hostHeld) = false) (h : after.halted = false)
    (ht : after.trace = s.trace ++ os) (hd : (after.setPort p rest).deliverAll os = .raise c info) :
    s.settle p rest after = .next ((s.setPort p rest).halt c info) := by
  rw [State.settle, if_neg (by simp [hn]), if_neg (by simp [h]), ht, List.drop_left, hd]
  rfl

/-! ### The well-formed state -/

theorem cfgValid_iff (c : Config) : c.valid = true ↔
    c.ringCap ∈ Config.ringCaps ∧ c.txBufLen ≤ 255 ∧ 2 ≤ c.rxBufLen ∧
    c.busPmLevel < c.pmLevels ∧ c.txPmLevel < c.pmLevels ∧ 1 ≤ c.pmLevels ∧ 1 ≤ c.pmBlockBound ∧
    c.sofMarker ≠ c.eofMarker ∧ c.sofMarker ≠ c.term ∧ c.eofMarker ≠ c.term := by
  simp only [Config.valid, decide_eq_true_eq]

theorem State.shapeOk_iff (s : State) : s.shapeOk = true ↔
    s.rxLen ≤ s.cfg.rxBufLen ∧ s.ringRd < s.cfg.ringCap ∧ s.ringWr < s.cfg.ringCap ∧
    s.txBuf.wf = true ∧ s.txBuf.fits s.cfg.txBufLen = true ∧
    s.rxBuf.wf = true ∧ s.rxBuf.fits s.cfg.rxBufLen = true ∧
    s.ringMem.wf = true ∧ s.ringMem.fits s.cfg.ringCap = true := by
  simp only [State.shapeOk, decide_eq_true_eq]

theorem State.busOk_iff (s : State) : s.busOk = true ↔ s.busState ≠ .reserved := by
  simp only [State.busOk, decide_eq_true_eq]

theorem State.txOk_iff (s : State) : s.txOk = true ↔
    s.txState ≠ .reserved ∧
    (s.txBusy = true ↔ s.txState ≠ .idle) ∧
    (s.txBlIe = true ↔ s.txState = .sending) ∧
    (s.txCIe = true ↔ s.txState = .completing) ∧
    s.txSent ≤ s.txLen ∧ s.txLen.toNat ≤ s.cfg.txBufLen ∧
    (s.txState = .completing → s.txSent = s.txLen) := by
  simp only [State.txOk, decide_eq_true_eq]

theorem State.rxOk_iff (s : State) : s.rxOk = true ↔
    (s.rxState = .idle ∨ s.rxState = .collecting) ∧
    (s.rxBlock = true ↔ s.rxState = .idle) ∧
    (s.rxByteIe = true ↔ s.rxState = .collecting) ∧
    (s.rxEofIe = true ↔ s.rxState = .collecting) ∧
    (s.rxValid = true → s.rxState = .idle) ∧
    (s.rxState = .collecting → 1 ≤ s.rxLen ∧ s.rxBuf.get? 0 = some s.cfg.sofMarker) ∧
    (s.rxValid = true → s.rxLen < s.cfg.rxBufLen) := by
  simp only [State.rxOk, decide_eq_true_eq]

theorem State.wellFormed_iff (s : State) : s.wellFormed = true ↔
    s.cfg.valid = true ∧ s.shapeOk = true ∧ s.busOk = true ∧ s.txOk = true ∧ s.rxOk = true := by
  simp [State.wellFormed, and_assoc]

/-- The parts of `wellFormed` read only the fields they name: two states that agree on them are well formed together. -/
theorem State.wellFormed_congr {s t : State} (hc : t.cfg = s.cfg) (hb : t.busState = s.busState)
    (h1 : t.txState = s.txState) (h2 : t.txBusy = s.txBusy) (h3 : t.txBuf = s.txBuf) (h4 : t.txLen = s.txLen)
    (h5 : t.txSent = s.txSent) (h6 : t.txBlIe = s.txBlIe) (h7 : t.txCIe = s.txCIe)
    (r1 : t.rxState = s.rxState) (r2 : t.rxBuf = s.rxBuf) (r3 : t.rxLen = s.rxLen) (r4 : t.rxBlock = s.rxBlock)
    (r5 : t.rxByteIe = s.rxByteIe) (r6 : t.rxEofIe = s.rxEofIe) (r7 : t.rxValid = s.rxValid)
    (g1 : t.ringMem = s.ringMem) (g2 : t.ringRd = s.ringRd) (g3 : t.ringWr = s.ringWr) :
    t.wellFormed = s.wellFormed := by
  simp only [State.wellFormed, State.shapeOk, State.busOk, State.txOk, State.rxOk, hc, hb, h1, h2, h3, h4, h5, h6, h7,
    r1, r2, r3, r4, r5, r6, r7, g1, g2, g3]

@[simp] theorem State.emit_wellFormed (s : State) (o : Output) : (s.emit o).wellFormed = s.wellFormed := rfl
@[simp] theorem State.halt_wellFormed (s : State) (c : FaultCode) (info : Half) :
    (s.halt c info).wellFormed = s.wellFormed := rfl
@[simp] theorem State.hold_wellFormed (s : State) : s.hold.wellFormed = s.wellFormed := rfl
@[simp] theorem State.emit_halted (s : State) (o : Output) : (s.emit o).halted = s.halted := rfl
@[simp] theorem State.hold_halted (s : State) : s.hold.halted = s.halted := rfl
@[simp] theorem State.beginOperation_halted (s : State) (p : Port) : (s.beginOperation p).halted = s.halted := by
  cases p <;> rfl
@[simp] theorem State.beginOperation_wellFormed (s : State) (p : Port) :
    (s.beginOperation p).wellFormed = s.wellFormed := by
  cases p <;> rfl
@[simp] theorem State.setPort_wellFormed (s : State) (p : Port) (ws : List Word) :
    (s.setPort p ws).wellFormed = s.wellFormed := by
  cases p <;> rfl
@[simp] theorem State.setPort_halted (s : State) (p : Port) (ws : List Word) : (s.setPort p ws).halted = s.halted := by
  cases p <;> rfl

/-! ### The rules other rules perform -/

/-- Everything `SER_START`'s rule can answer (R141, R254). -/
theorem State.startTransmission_cases (s : State) (text : List Byte) :
    (s.txBusy = true ∧ s.startTransmission text = .hold) ∨
    (s.txBusy = false ∧ s.cfg.term ∈ text ∧ s.startTransmission text = .refuse .textHasTerm) ∨
    (s.txBusy = false ∧ s.cfg.term ∉ text ∧ s.cfg.txBufLen < text.length ∧
      s.startTransmission text = .raise .txOverflow (faultInfoOf text.length 0x02)) ∨
    (s.txBusy = false ∧ s.cfg.term ∉ text ∧ text.length ≤ s.cfg.txBufLen ∧
      s.startTransmission text = .done { s with
        txBuf := s.txBuf.setAll 0 text, txLen := BitVec.ofNat 8 text.length, txSent := 0, txBusy := true,
        txState := .sending, txBlIe := true, trace := s.trace ++ [.pmBlock s.cfg.txPmLevel] }) := by
  unfold State.startTransmission
  by_cases hb : s.txBusy = true
  · exact .inl ⟨hb, by simp [hb]⟩
  · by_cases ht : s.cfg.term ∈ text
    · exact .inr (.inl ⟨by simpa using hb, ht, by simp [hb, ht]⟩)
    · by_cases hl : s.cfg.txBufLen < text.length
      · exact .inr (.inr (.inl ⟨by simpa using hb, ht, hl, by simp [hb, ht, hl]⟩))
      · exact .inr (.inr (.inr ⟨by simpa using hb, ht, by omega, by simp [hb, ht, hl, State.emit]⟩))

/-- Everything the append can answer (R171). -/
theorem State.rxAppend_cases (s : State) (b op : Byte) :
    (s.cfg.rxBufLen ≤ s.rxLen ∧ s.rxAppend b op = .raise .rxOverflow (faultInfoOf 0 op)) ∨
    (s.rxLen < s.cfg.rxBufLen ∧
      s.rxAppend b op = .done { s with rxBuf := s.rxBuf.set s.rxLen b, rxLen := s.rxLen + 1 }) := by
  unfold State.rxAppend
  by_cases h : s.rxLen ≥ s.cfg.rxBufLen
  · exact .inl ⟨h, by simp [h]⟩
  · exact .inr ⟨by omega, by simp [h]⟩

/-- The environment acts on its own fields only, and faults only by an imbalance. -/
theorem State.deliver_cases (s : State) (o : Output) :
    (∃ mask counts, s.deliver o = .done { s with eventMask := mask, pmCount := counts }) ∨
    (∃ l, s.deliver o = .raise .pmImbalance (BitVec.ofNat 16 l)) := by
  cases o with
  | post e => exact .inl ⟨_, s.pmCount, rfl⟩
  | pmBlock l =>
    simp only [State.deliver, State.blockLevel]
    split
    · exact .inr ⟨l, rfl⟩
    · exact .inl ⟨s.eventMask, _, rfl⟩
  | pmUnblock l =>
    simp only [State.deliver, State.unblockLevel]
    split
    · exact .inr ⟨l, rfl⟩
    · exact .inl ⟨s.eventMask, _, rfl⟩
  | busCmd c => exact .inl ⟨s.eventMask, s.pmCount, rfl⟩
  | destWrite h v => exact .inl ⟨s.eventMask, s.pmCount, rfl⟩
  | txByte b => exact .inl ⟨s.eventMask, s.pmCount, rfl⟩
  | sinkOut bs => exact .inl ⟨s.eventMask, s.pmCount, rfl⟩
  | result v => exact .inl ⟨s.eventMask, s.pmCount, rfl⟩

/-- The same of a step's outputs together. -/
theorem State.deliverAll_cases (s : State) (os : List Output) :
    (∃ mask counts, s.deliverAll os = .done { s with eventMask := mask, pmCount := counts }) ∨
    (∃ l, s.deliverAll os = .raise .pmImbalance (BitVec.ofNat 16 l)) := by
  induction os generalizing s with
  | nil => exact .inl ⟨s.eventMask, s.pmCount, rfl⟩
  | cons o os ih =>
    rw [State.deliverAll]
    rcases s.deliver_cases o with ⟨m, c, h⟩ | ⟨l, h⟩
    · rw [h, Effect.andThen_done]
      exact ih _
    · exact .inr ⟨l, by rw [h, Effect.andThen_raise]⟩

end Sys2Proof.Machine
end

