-- ==== Sys2Proof/Laws/Exec.lean ====
section
/-! SUPPORT. What an operation can leave and what a step can do, each said once, so that a proof about every operation
or every step is one case analysis. -/

namespace Sys2Proof.Machine

/-- `Leaves s i t`: the operation `i`, performed in the ready state `s`, leaves `t` without a fault. -/
inductive Leaves (s : State) : Instr → State → Prop
  /-- R104. -/
  | begins (addr : BitVec 7) (cmd : Byte) (evt : BitVec 5) (dest : Word) (h : s.busState = .idle) :
    Leaves s (.busStart addr cmd evt dest) { s with
      busAddr := addr, busCmd := cmd, busDest := dest, busEvt := evt, busState := .selectDevice,
      trace := s.trace ++ [.pmBlock s.cfg.busPmLevel, .busCmd (.sel (selByte addr .write))] }
  /-- R105. -/
  | selected (h : s.busState = .selectDevice) :
    Leaves s .busAck { s with busState := .sendCommand, trace := s.trace ++ [.busCmd (.wr s.busCmd)] }
  /-- R105. -/
  | commanded (h : s.busState = .sendCommand) :
    Leaves s .busAck { s with
      busState := .confirmSelect, trace := s.trace ++ [.busCmd (.sel (selByte s.busAddr .read))] }
  /-- R105. -/
  | confirmed (h : s.busState = .confirmSelect) : Leaves s .busAck { s with busState := .receiveHigh }
  /-- R106. -/
  | retriesWrite (h : s.busState = .selectDevice) :
    Leaves s .busNack { s with trace := s.trace ++ [.busCmd (.sel (selByte s.busAddr .write))] }
  /-- R106. -/
  | retriesRead (h : s.busState = .confirmSelect) :
    Leaves s .busNack { s with trace := s.trace ++ [.busCmd (.sel (selByte s.busAddr .read))] }
  /-- R107. -/
  | highByte (b : Byte) (h : s.busState = .receiveHigh) :
    Leaves s (.busData b) { s with busHi := b, busState := .receiveLow, trace := s.trace ++ [.busCmd .ack] }
  /-- R107. -/
  | lowByte (b : Byte) (h : s.busState = .receiveLow) :
    Leaves s (.busData b) { s with
      busState := .done,
      trace := s.trace ++ [.destWrite s.busDest (resultWord s.busHi b), .busCmd .nack, .busCmd .stop] }
  /-- R108. -/
  | stops (h : s.busState = .done) :
    Leaves s .busStop { s with
      busState := .idle, trace := s.trace ++ [.pmUnblock s.cfg.busPmLevel, .post s.busEvt] }
  /-- R141. -/
  | starts (text : List Byte) (h : s.txBusy = false) (ht : s.cfg.term ∉ text) (hl : text.length ≤ s.cfg.txBufLen) :
    Leaves s (.serStart text) { s with
      txBuf := s.txBuf.setAll 0 text, txLen := BitVec.ofNat 8 text.length, txSent := 0, txBusy := true,
      txState := .sending, txBlIe := true, trace := s.trace ++ [.pmBlock s.cfg.txPmLevel] }
  /-- R256. -/
  | holds (text : List Byte) (h : s.txBusy = true) : Leaves s (.serStart text) s.hold
  /-- R142. -/
  | sends (h : s.txBlIe = true) : Leaves s .txByteReady s.sendByte.finishSending
  /-- R143. -/
  | completes (h : s.txCIe = true) :
    Leaves s .txComplete { s with
      txBusy := false, txCIe := false, txState := .idle,
      trace := s.trace ++ [.pmUnblock s.cfg.txPmLevel, .post s.cfg.txDoneEvent] }
  /-- R172, R175. -/
  | beginsFrame (i : Instr) (hi : i = .rxStartFrame ∨ i = .rxLine s.cfg.sofMarker) (h : s.rxState = .idle) :
    Leaves s i { s with
      rxBuf := s.rxBuf.set 0 s.cfg.sofMarker, rxLen := 1, rxValid := false, rxByteIe := true, rxEofIe := true,
      rxBlock := false, rxState := .collecting }
  /-- R172, R175. -/
  | restartsFrame (i : Instr) (hi : i = .rxStartFrame ∨ i = .rxLine s.cfg.sofMarker) (h : s.rxState = .collecting) :
    Leaves s i { s with rxBuf := s.rxBuf.set 0 s.cfg.sofMarker, rxLen := 1 }
  /-- R173, R175. -/
  | appends (i : Instr) (b : Byte) (hi : i = .rxByte b ∨ i = .rxLine b) (h : s.rxState = .collecting)
    (hl : s.rxLen < s.cfg.rxBufLen) :
    Leaves s i { s with rxBuf := s.rxBuf.set s.rxLen b, rxLen := s.rxLen + 1 }
  /-- R174. -/
  | endsFrame (h : s.rxState = .collecting) (hl : s.rxLen < s.cfg.rxBufLen) :
    Leaves s .rxEndFrame { s with
      rxBuf := s.rxBuf.set s.rxLen s.cfg.term, rxBlock := true, rxByteIe := false, rxEofIe := false, rxValid := true,
      rxState := .idle, trace := s.trace ++ [.post s.cfg.rxDoneEvent] }
  /-- R175. -/
  | lineEndsFrame (h : s.rxState = .collecting) (hl : s.rxLen + 1 < s.cfg.rxBufLen) :
    Leaves s (.rxLine s.cfg.eofMarker) { s with
      rxBuf := (s.rxBuf.set s.rxLen s.cfg.eofMarker).set (s.rxLen + 1) s.cfg.term, rxLen := s.rxLen + 1,
      rxBlock := true, rxByteIe := false, rxEofIe := false, rxValid := true, rxState := .idle,
      trace := s.trace ++ [.post s.cfg.rxDoneEvent] }
  /-- R258, and the line bytes that both detectors discard (R175). -/
  | discards (i : Instr) (hi : i.port = .tx ∨ i.port = .rx) : Leaves s i s
  /-- R176. -/
  | returnsFrame (h : s.rxValid = true) (ht : s.cfg.term ∉ s.rxFrame) :
    Leaves s .rxText { s with trace := s.trace ++ [.result (.text s.rxFrame)] }
  /-- R176. -/
  | returnsDraw : Leaves s .rxText { s with trace := s.trace ++ [.result (.text s.drawnText)], draws := s.draws + 1 }
  /-- R211. -/
  | pushes (msg : List Byte) (hl : msg.length + 2 ≤ s.space) :
    Leaves s (.ringPush msg) (s.ringPutAll (BitVec.ofNat 8 (msg.length + 1) :: msg))
  /-- R212. -/
  | popsNothing (toTestSink : Bool) (h : s.txBusy = true ∨ s.occ = 0) :
    Leaves s (.ringPop toTestSink) { s with trace := s.trace ++ [.result (.empty true)] }
  /-- R212. -/
  | popsToSink (h : Nat) (hh : h = (s.ringRead s.ringRd).toNat) (h0 : 0 < h) (ho : h ≤ s.occ) (hb : s.txBusy = false) :
    Leaves s (.ringPop true) { s with
      ringRd := (s.ringRd + h) % s.cfg.ringCap,
      trace := s.trace ++
        [.sinkOut (s.ringReadAll (s.ringNext s.ringRd) (h - 1) ++ [s.cfg.term]), .result (.empty false)] }
  /-- R212. -/
  | popsToTransmitter (h : Nat) (m : List Byte) (hh : h = (s.ringRead s.ringRd).toNat) (h0 : 0 < h) (ho : h ≤ s.occ)
    (hb : s.txBusy = false) (hm : m = s.ringReadAll (s.ringNext s.ringRd) (h - 1)) (ht : s.cfg.term ∉ m)
    (hl : m.length ≤ s.cfg.txBufLen) :
    Leaves s (.ringPop false) { s with
      ringRd := (s.ringRd + h) % s.cfg.ringCap, txBuf := s.txBuf.setAll 0 m, txLen := BitVec.ofNat 8 m.length,
      txSent := 0, txBusy := true, txState := .sending, txBlIe := true,
      trace := s.trace ++ [.pmBlock s.cfg.txPmLevel, .result (.empty false)] }
  /-- R213. -/
  | countsSpace : Leaves s .ringSpace { s with trace := s.trace ++ [.result (.count s.space)] }
  /-- R214. -/
  | countsOccupied : Leaves s .ringOccupied { s with trace := s.trace ++ [.result (.count s.occ)] }

/-- What `exec_cases` says of a next state. -/
abbrev LeavesOrFaults (s : State) (i : Instr) (t : State) : Prop :=
  Leaves s i t ∨ ∃ c info, faultAllowed s i c info ∧ t = s.halt c info

/-! ### The receive rules in a ready state -/

theorem State.rxBlock_of_idle {s : State} (h : s.rxOk = true) (hi : s.rxState = .idle) : s.rxBlock = true :=
  (s.rxOk_iff.1 h).2.1.2 hi

theorem State.rxEofIe_of_idle {s : State} (h : s.rxOk = true) (hi : s.rxState = .idle) : s.rxEofIe = false := by
  have := (s.rxOk_iff.1 h).2.2.2.1
  rw [hi] at this
  simpa using this

theorem State.rx_of_collecting {s : State} (h : s.rxOk = true) (hi : s.rxState = .collecting) :
    s.rxBlock = false ∧ s.rxByteIe = true ∧ s.rxEofIe = true := by
  obtain ⟨-, h1, h2, h3, -⟩ := s.rxOk_iff.1 h
  rw [hi] at h1
  exact ⟨by simpa using h1, h2.2 hi, h3.2 hi⟩

theorem State.receiveByte_of_idle {s : State} (h : s.rxOk = true) (hi : s.rxState = .idle) (b : Byte) :
    s.receiveByte b = .done s := by
  simp [State.receiveByte, State.rxBlock_of_idle h hi]

theorem State.receiveByte_of_collecting {s : State} (h : s.rxOk = true) (hi : s.rxState = .collecting) (b : Byte) :
    s.receiveByte b = s.rxAppend b 0x31 := by
  obtain ⟨h1, h2, -⟩ := State.rx_of_collecting h hi
  simp [State.receiveByte, h1, h2]

theorem State.endFrame_of_idle {s : State} (h : s.rxOk = true) (hi : s.rxState = .idle) : s.endFrame = .done s := by
  simp [State.endFrame, State.rxEofIe_of_idle h hi]

/-- Everything the end of a frame can do once the end-of-frame interrupt is enabled (R174). -/
theorem State.endFrame_cases {s : State} (h : s.rxEofIe = true) :
    (s.cfg.rxBufLen ≤ s.rxLen ∧ s.endFrame = .raise .rxOverflow (faultInfoOf 0 0x32)) ∨
    (s.rxLen < s.cfg.rxBufLen ∧ s.endFrame = .done { s with
      rxBuf := s.rxBuf.set s.rxLen s.cfg.term, rxBlock := true, rxByteIe := false, rxEofIe := false, rxValid := true,
      rxState := .idle, trace := s.trace ++ [.post s.cfg.rxDoneEvent] }) := by
  by_cases hl : s.cfg.rxBufLen ≤ s.rxLen
  · exact .inl ⟨hl, by simp [State.endFrame, h, hl]⟩
  · exact .inr ⟨by omega, by simp [State.endFrame, h, hl, State.emit]⟩

/-- Everything the start of a frame can do (R172): it never overflows. -/
theorem State.startFrame_cases {s : State} (hc : s.cfg.valid = true) (h : s.rxOk = true) :
    (s.rxState = .idle ∧ s.startFrame = .done { s with
      rxBuf := s.rxBuf.set 0 s.cfg.sofMarker, rxLen := 1, rxValid := false, rxByteIe := true, rxEofIe := true,
      rxBlock := false, rxState := .collecting }) ∨
    (s.rxState = .collecting ∧
      s.startFrame = .done { s with rxBuf := s.rxBuf.set 0 s.cfg.sofMarker, rxLen := 1 }) := by
  have h2 := ((cfgValid_iff _).1 hc).2.2.1
  rcases (s.rxOk_iff.1 h).1 with hi | hi
  · exact .inl ⟨hi, by simp [State.startFrame, hi, State.rxAppend, show ¬ s.cfg.rxBufLen = 0 by omega]⟩
  · exact .inr ⟨hi, by simp [State.startFrame, hi, State.rxAppend, show ¬ s.cfg.rxBufLen = 0 by omega]⟩

/-! ### Popping a record -/

/-- The record R212's pop takes out of the ring ends where the header says. -/
theorem State.ringAdvance_header {s : State} (hc : s.cfg.ringCap ∈ Config.ringCaps) {h : Nat} (h0 : 0 < h) :
    s.ringAdvance (s.ringNext s.ringRd) (h - 1) = (s.ringRd + h) % s.cfg.ringCap := by
  rw [State.ringAdvance_eq hc (State.ringNext_lt hc _), State.ringNext_eq hc, Nat.mod_add_mod]
  congr 1
  omega

/-! ### Every operation -/

theorem exec_ready {i : Instr} {s t : State} (h : exec i s = .next t) : s.ready = true := by
  cases i <;> exact (State.perform_next h).1

/-- Everything an operation that answers a next state can leave. -/
theorem exec_cases {i : Instr} {s t : State} (h : exec i s = .next t) : s.ready = true ∧ LeavesOrFaults s i t := by
  have hr := exec_ready h
  refine ⟨hr, ?_⟩
  obtain ⟨hc, hsh, hb, -, hx⟩ := s.wellFormed_iff.1 (s.ready_iff.1 hr).2
  have hlen := (s.shapeOk_iff.1 hsh).1
  have hbus := s.busOk_iff.1 hb
  cases i with
  | busStart addr cmd evt dest =>
    simp only [exec, execBusStart, State.perform_of_ready hr] at h
    by_cases hi : s.busState = .idle
    · rw [if_neg (by simp [hi])] at h
      cases h
      exact .inl (by simpa [State.emit] using Leaves.begins addr cmd evt dest hi)
    · rw [if_pos hi] at h
      cases h
      exact .inr ⟨_, _, ⟨hi, rfl, rfl⟩, rfl⟩
  | busAck =>
    simp only [exec, execBusAck, State.perform_of_ready hr] at h
    split at h <;> rename_i hs <;> cases h
    · exact .inl (.selected hs)
    · exact .inl (.commanded hs)
    · exact .inl (.confirmed hs)
    all_goals exact .inr ⟨_, _, ⟨by rw [hs]; rfl, rfl, rfl⟩, rfl⟩
  | busNack =>
    simp only [exec, execBusNack, State.perform_of_ready hr] at h
    split at h <;> rename_i hs <;> cases h
    · exact .inl (.retriesWrite hs)
    · exact .inl (.retriesRead hs)
    all_goals exact .inr ⟨_, _, ⟨by rw [hs]; rfl, rfl, rfl⟩, rfl⟩
  | busData b =>
    simp only [exec, execBusData, State.perform_of_ready hr] at h
    split at h <;> rename_i hs <;> cases h
    · exact .inl (.highByte b hs)
    · exact .inl (by simpa [State.emit] using Leaves.lowByte b hs)
    all_goals exact .inr ⟨_, _, ⟨by rw [hs]; rfl, rfl, rfl⟩, rfl⟩
  | busStop =>
    simp only [exec, execBusStop, State.perform_of_ready hr] at h
    split at h <;> rename_i hs <;> cases h
    · exact .inl (by simpa [State.emit] using Leaves.stops hs)
    all_goals exact .inr ⟨_, _, ⟨by rw [hs]; rfl, rfl, rfl⟩, rfl⟩
  | serStart text =>
    simp only [exec, execSerStart, State.perform_of_ready hr] at h
    rcases s.startTransmission_cases text with ⟨a, e⟩ | ⟨-, -, e⟩ | ⟨a, b, c, e⟩ | ⟨a, b, c, e⟩ <;>
      rw [e] at h <;> cases h
    · exact .inl (.holds text a)
    · exact .inr ⟨_, _, ⟨a, b, c, rfl, rfl⟩, rfl⟩
    · exact .inl (.starts text a b c)
  | ringPush msg =>
    simp only [exec, execRingPush, State.perform_of_ready hr] at h
    split at h <;> rename_i hl <;> cases h
    · exact .inr ⟨_, _, ⟨hl, rfl, rfl⟩, rfl⟩
    · exact .inl (.pushes msg (by omega))
  | ringPop toTestSink =>
    simp only [exec, execRingPop, State.perform_of_ready hr] at h
    split at h
    · rename_i he
      cases h
      exact .inl (.popsNothing _ (by simpa using he))
    · rename_i he
      obtain ⟨hb, ho⟩ : s.txBusy = false ∧ s.occ ≠ 0 := by simpa using he
      split at h
      · rename_i hh
        cases h
        exact .inr ⟨.ringCorrupt, _, ⟨hb, ho, .inl ⟨hh, rfl, rfl⟩⟩, rfl⟩
      · rename_i hh
        rw [State.ringAdvance_header ((cfgValid_iff _).1 hc).1 (by omega)] at h
        cases toTestSink with
        | true =>
          cases h
          exact .inl (by simpa [State.emit] using Leaves.popsToSink _ rfl (by omega) (by omega) hb)
        | false =>
          rw [State.handOver, if_neg (by decide)] at h
          rcases State.startTransmission_cases { s with
            ringRd := (s.ringRd + (s.ringRead s.ringRd).toNat) % s.cfg.ringCap }
              (s.ringReadAll (s.ringNext s.ringRd) ((s.ringRead s.ringRd).toNat - 1)) with
            ⟨a, -⟩ | ⟨-, -, e⟩ | ⟨-, b, c, e⟩ | ⟨-, b, c, e⟩
          · exact absurd (hb.symm.trans a) (by decide)
          · rw [e] at h
            cases h
          · rw [e] at h
            cases h
            rw [State.ringReadAll_length] at c
            exact .inr ⟨.txOverflow, _,
              ⟨hb, ho, .inr ⟨rfl, by omega, by omega, b, c, rfl, by rw [State.ringReadAll_length]⟩⟩, rfl⟩
          · rw [e] at h
            cases h
            exact .inl (by
              simpa [State.emit] using Leaves.popsToTransmitter _ _ rfl (by omega) (by omega) hb rfl b c)
  | ringSpace =>
    simp only [exec, execRingSpace, State.perform_of_ready hr] at h
    cases h
    exact .inl .countsSpace
  | ringOccupied =>
    simp only [exec, execRingOccupied, State.perform_of_ready hr] at h
    cases h
    exact .inl .countsOccupied
  | rxText =>
    simp only [exec, execRxText, State.perform_of_ready hr] at h
    split at h <;> rename_i hv <;> cases h
    · simp at hv
      exact .inl (.returnsFrame hv.1 hv.2)
    · exact .inl .returnsDraw
  | txByteReady =>
    simp only [exec, execTxByteReady, State.perform_of_ready hr] at h
    split at h <;> rename_i hv <;> cases h
    · exact .inl (.sends hv)
    · exact .inl (.discards _ (.inl rfl))
  | txComplete =>
    simp only [exec, execTxComplete, State.perform_of_ready hr] at h
    split at h <;> rename_i hv <;> cases h
    · exact .inl (by simpa [State.emit] using Leaves.completes hv)
    · exact .inl (.discards _ (.inl rfl))
  | rxStartFrame =>
    simp only [exec, execRxStartFrame, State.perform_of_ready hr] at h
    rcases State.startFrame_cases hc hx with ⟨hi, e⟩ | ⟨hi, e⟩ <;> rw [e] at h <;> cases h
    · exact .inl (.beginsFrame _ (.inl rfl) hi)
    · exact .inl (.restartsFrame _ (.inl rfl) hi)
  | rxByte b =>
    simp only [exec, execRxByte, State.perform_of_ready hr] at h
    rcases (s.rxOk_iff.1 hx).1 with hi | hi
    · rw [State.receiveByte_of_idle hx hi] at h
      cases h
      exact .inl (.discards _ (.inr rfl))
    · rw [State.receiveByte_of_collecting hx hi] at h
      rcases s.rxAppend_cases b 0x31 with ⟨hl, e⟩ | ⟨hl, e⟩ <;> rw [e] at h <;> cases h
      · exact .inr ⟨_, _, ⟨hi, by omega, rfl, rfl⟩, rfl⟩
      · exact .inl (.appends _ b (.inl rfl) hi hl)
  | rxEndFrame =>
    simp only [exec, execRxEndFrame, State.perform_of_ready hr] at h
    rcases (s.rxOk_iff.1 hx).1 with hi | hi
    · rw [State.endFrame_of_idle hx hi] at h
      cases h
      exact .inl (.discards _ (.inr rfl))
    · rcases State.endFrame_cases (State.rx_of_collecting hx hi).2.2 with ⟨hl, e⟩ | ⟨hl, e⟩ <;> rw [e] at h <;> cases h
      · exact .inr ⟨_, _, ⟨hi, by omega, rfl, rfl⟩, rfl⟩
      · exact .inl (.endsFrame hi hl)
  | rxLine b =>
    simp only [exec, execRxLine, State.perform_of_ready hr] at h
    split at h
    · rename_i hm
      subst hm
      rcases State.startFrame_cases hc hx with ⟨hi, e⟩ | ⟨hi, e⟩ <;> rw [e] at h <;> cases h
      · exact .inl (.beginsFrame _ (.inr rfl) hi)
      · exact .inl (.restartsFrame _ (.inr rfl) hi)
    · rename_i hsof
      rcases (s.rxOk_iff.1 hx).1 with hi | hi
      · rw [State.receiveByte_of_idle hx hi, Effect.andThen_done, State.endFrame_of_idle hx hi, ite_self] at h
        cases h
        exact .inl (.discards _ (.inr rfl))
      · rw [State.receiveByte_of_collecting hx hi] at h
        rcases s.rxAppend_cases b 0x31 with ⟨hl, e⟩ | ⟨hl, e⟩ <;> rw [e] at h
        · cases h
          exact .inr ⟨_, _, ⟨hi, hsof, rfl, .inl ⟨by omega, rfl⟩⟩, rfl⟩
        · rw [Effect.andThen_done] at h
          split at h
          · rename_i hm
            rcases State.endFrame_cases (s := { s with rxBuf := s.rxBuf.set s.rxLen b, rxLen := s.rxLen + 1 })
              (State.rx_of_collecting hx hi).2.2 with ⟨hl', e⟩ | ⟨hl', e⟩ <;> rw [e] at h <;> cases h
            · exact .inr ⟨_, _, ⟨hi, hsof, rfl, .inr ⟨hm, by simp only at hl'; omega, rfl⟩⟩, rfl⟩
            · have hm' : b = s.cfg.eofMarker := hm
              subst hm'
              exact .inl (.lineEndsFrame hi hl')
          · cases h
            exact .inl (.appends _ b (.inr rfl) hi hl)

/-! ### Every step -/

/-- Everything that can follow an operation's own effect. -/
theorem State.settle_cases {s u t : State} {p : Port} {rest : List Word} (h : s.settle p rest u = .next t) :
    (t = u ∧ p = .host ∧ u.hostHeld = true) ∨
    (t = u.setPort p rest ∧ u.halted = true) ∨
    (∃ l, t = (s.setPort p rest).halt .pmImbalance (BitVec.ofNat 16 l)) ∨
    (u.halted = false ∧ ∃ mask counts,
      (u.setPort p rest).deliverAll (u.trace.drop s.trace.length) =
        .done { u.setPort p rest with eventMask := mask, pmCount := counts } ∧
      t = { u.setPort p rest with eventMask := mask, pmCount := counts }) := by
  unfold State.settle at h
  split at h
  · rename_i hh
    cases h
    simp only [Bool.and_eq_true, beq_iff_eq] at hh
    exact .inl ⟨rfl, hh⟩
  · split at h
    · cases h
      exact .inr (.inl ⟨rfl, ‹_›⟩)
    · rcases (u.setPort p rest).deliverAll_cases (u.trace.drop s.trace.length) with ⟨m, c, e⟩ | ⟨l, e⟩ <;>
        rw [e] at h <;> cases h
      · exact .inr (.inr (.inr ⟨Bool.eq_false_iff.2 ‹_›, m, c, e, rfl⟩))
      · exact .inr (.inr (.inl ⟨l, rfl⟩))

/-- Everything a step can do: perform the operation a port presents, cycle the power, or change the schedule, the fault
fields, the event mask, the sleep and what the ports present only. -/
theorem step_cases {s t : State} (h : step s = .next t) :
    (∃ (p : Port) (i : Instr) (moves : List Move) (rest : List Word) (u : State),
      s.schedule = .port p :: moves ∧ s.halted = false ∧ s.asleep = none ∧ decode p (s.portWords p) = .op i rest ∧
      exec i (({ s with schedule := moves } : State).beginOperation p) = .next u ∧
      (({ s with schedule := moves } : State).beginOperation p).settle p rest u = .next t) ∨
    (∃ moves, s.schedule = .powerCycle :: moves ∧ t = ({ s with schedule := moves } : State).powerCycle) ∨
    (∃ moves c info mask sleep hw bw tw rw, t = { s with
      schedule := moves, faultCode := c, faultInfo := info, eventMask := mask, asleep := sleep,
      hostPort := hw, busPort := bw, txPort := tw, rxPort := rw }) := by
  unfold step State.moveOn at h
  split at h
  · split at h
    · cases h
    · cases h
      exact .inr (.inr ⟨s.schedule, s.faultCode, s.faultInfo, s.eventMask, s.asleep, _, _, _, _, rfl⟩)
  · rename_i m moves hs
    split at h
    · cases h
    · rename_i hn
      cases m with
      | port p =>
        have hh : s.halted = false := by simpa using hn
        simp only [State.takeMove] at h
        split at h
        · cases h
          exact .inr (.inr ⟨moves, s.faultCode, s.faultInfo, s.eventMask, s.asleep, _, _, _, _, rfl⟩)
        · rename_i ha
          unfold State.runPort at h
          have hp : ({ s with schedule := moves } : State).portWords p = s.portWords p := by cases p <;> rfl
          rw [hp] at h
          split at h
          · cases h
            exact .inr (.inr ⟨moves, s.faultCode, s.faultInfo, s.eventMask, s.asleep, _, _, _, _, rfl⟩)
          · cases h
            cases p <;> exact .inr (.inr ⟨moves, _, _, s.eventMask, s.asleep, _, _, _, _, rfl⟩)
          · rename_i i rest hd
            split at h
            · rename_i u hu
              exact .inl ⟨p, i, moves, rest, u, hs, hh, by simpa using ha, hd, hu, h⟩
            · cases h
            · cases h
      | post e =>
        cases h
        exact .inr (.inr ⟨moves, s.faultCode, s.faultInfo, _, s.asleep, _, _, _, _, rfl⟩)
      | clear e =>
        cases h
        split
        · exact .inr (.inr ⟨moves, s.faultCode, s.faultInfo, _, s.asleep, _, _, _, _, rfl⟩)
        · exact .inr (.inr ⟨moves, s.faultCode, s.faultInfo, s.eventMask, s.asleep, _, _, _, _, rfl⟩)
      | enterIdle =>
        cases h
        split
        · unfold State.enterIdle
          split
          · exact .inr (.inr ⟨moves, s.faultCode, s.faultInfo, s.eventMask, _, _, _, _, _, rfl⟩)
          · exact .inr (.inr ⟨moves, s.faultCode, s.faultInfo, s.eventMask, s.asleep, _, _, _, _, rfl⟩)
        · exact .inr (.inr ⟨moves, s.faultCode, s.faultInfo, s.eventMask, s.asleep, _, _, _, _, rfl⟩)
      | wake =>
        cases h
        exact .inr (.inr ⟨moves, s.faultCode, s.faultInfo, s.eventMask, none, _, _, _, _, rfl⟩)
      | powerCycle =>
        cases h
        exact .inr (.inl ⟨moves, hs, rfl⟩)

end Sys2Proof.Machine
end

