-- ==== Sys2Proof/Laws/PerInstr.lean ====
section
/-! SUPPORT. What every operation's first word says, one lemma per constructor (30_encoding.md R81, R87). -/

namespace Sys2Proof.Laws

/-- A word built from an opcode byte and 24 further bits carries both. -/
theorem opcode_of_fields {w : Word} {op : Byte} {x : Nat} (hx : x < 2 ^ 24) (hw : w.toNat = op.toNat * 2 ^ 24 + x) :
    w.extractLsb' 24 8 = op ∧ (w.extractLsb' 28 4).toNat = op.toNat / 16 := by
  have := op.isLt
  exact ⟨BitVec.eq_of_toNat_eq (by rw [toNat_field, hw]; omega), by rw [toNat_field, hw]; omega⟩

/-- R81: an opcode's high nibble is the class of its port. -/
theorem opcode_class (i : Instr) : i.opcode.toNat / 16 = i.port.classNibble.toNat := by
  cases i <;> simp only [Instr.opcode, Instr.port, Port.classNibble] <;> decide

namespace FirstWord

/-- An operation's first word carries its opcode (R87) and the class of its port (R81). -/
def Statement (i : Instr) : Prop :=
  ∃ w rest, encode i = w :: rest ∧ w.extractLsb' 24 8 = i.opcode ∧ w.extractLsb' 28 4 = i.port.classNibble

theorem of_fields {i : Instr} {w : Word} {rest : List Word} {x : Nat} (he : encode i = w :: rest) (hx : x < 2 ^ 24)
    (hw : w.toNat = i.opcode.toNat * 2 ^ 24 + x) : Statement i := by
  obtain ⟨h1, h2⟩ := opcode_of_fields hx hw
  exact ⟨w, rest, he, h1, BitVec.eq_of_toNat_eq (h2.trans (opcode_class i))⟩

theorem busStart (addr : BitVec 7) (cmd : Byte) (evt : BitVec 5) (dest : Word) :
    Statement (.busStart addr cmd evt dest) := by
  have h1 := addr.isLt
  have h2 := cmd.isLt
  have h3 := evt.isLt
  have hx : addr.toNat * 2 ^ 16 + cmd.toNat * 2 ^ 8 + evt.toNat < 2 ^ 24 := by omega
  exact of_fields rfl hx ((fieldsS _ addr cmd evt).trans (by omega))

theorem serStart (text : List Byte) : Statement (.serStart text) :=
  have h := (BitVec.ofNat 8 text.length).isLt
  of_fields rfl (by omega) (fieldsB _ _)

theorem ringPush (msg : List Byte) : Statement (.ringPush msg) :=
  have h := (BitVec.ofNat 8 msg.length).isLt
  of_fields rfl (by omega) (fieldsB _ _)

theorem ringPop (toTestSink : Bool) : Statement (.ringPop toTestSink) :=
  have h : toTestSink.toNat < 2 ^ 24 := by cases toTestSink <;> decide
  of_fields rfl h (fieldsP _ _)

theorem ringSpace : Statement .ringSpace := ⟨_, _, rfl, by decide, by decide⟩
theorem ringOccupied : Statement .ringOccupied := ⟨_, _, rfl, by decide, by decide⟩
theorem rxText : Statement .rxText := ⟨_, _, rfl, by decide, by decide⟩
theorem busAck : Statement .busAck := ⟨_, _, rfl, by decide, by decide⟩
theorem busNack : Statement .busNack := ⟨_, _, rfl, by decide, by decide⟩

theorem busData (b : Byte) : Statement (.busData b) :=
  have h := b.isLt
  of_fields rfl (by omega) (fieldsB _ _)

theorem busStop : Statement .busStop := ⟨_, _, rfl, by decide, by decide⟩
theorem txByteReady : Statement .txByteReady := ⟨_, _, rfl, by decide, by decide⟩
theorem txComplete : Statement .txComplete := ⟨_, _, rfl, by decide, by decide⟩
theorem rxStartFrame : Statement .rxStartFrame := ⟨_, _, rfl, by decide, by decide⟩

theorem rxByte (b : Byte) : Statement (.rxByte b) :=
  have h := b.isLt
  of_fields rfl (by omega) (fieldsB _ _)

theorem rxEndFrame : Statement .rxEndFrame := ⟨_, _, rfl, by decide, by decide⟩

theorem rxLine (b : Byte) : Statement (.rxLine b) :=
  have h := b.isLt
  of_fields rfl (by omega) (fieldsB _ _)

end FirstWord

end Sys2Proof.Laws
end

