-- ==== Sys2Proof/Tests/Slice0.lean ====
section
/-! SUPPORT. Tests: the well-formedness smoke, words written out from the encodings of 30_encoding.md, at most two steps
of each operation from the vectors of 95_test_vectors.md (named V-…), and for every statement a witness of its
hypotheses, at the ends of their ranges. -/

namespace Sys2Proof.Tests

open Sys2Proof.Machine

/-! ### Small states -/

/-- The state an operation or a step leaves, if it leaves one. -/
def after (r : Host.Outcome State Fault Refusal) : Option State :=
  match r with
  | .next t => some t
  | .fault _ => none
  | .refused _ => none

/-- Does an operation or a step leave a state with a property? -/
def leaves (r : Host.Outcome State Fault Refusal) (p : State → Bool) : Bool := (after r).any p

/-- Why an operation or a step is refused, if it is. -/
def refusal (r : Host.Outcome State Fault Refusal) : Option Refusal :=
  match r with
  | .next _ => none
  | .fault _ => none
  | .refused why => some why

/-- Vectors 2.2: the bus engine in a state, with their context. -/
def busIn (st : BusState) : State :=
  { State.reset with
    busState := st, busAddr := 0x40, busCmd := 0xE3, busEvt := 2, busDest := 0x20000000, busHi := 0x66,
    pmCount := if st = .idle then [0, 0, 0, 0] else [0, 1, 0, 0] }

/-- A transmission of a text of which some bytes are sent. -/
def sending (text : List Byte) (sent : BitVec 8) : State :=
  { State.reset with
    txState := .sending, txBusy := true, txBlIe := true, txBuf := Memory.setAll [] 0 text,
    txLen := BitVec.ofNat 8 text.length, txSent := sent, pmCount := [0, 0, 1, 0] }

/-- A transmission whose bytes are all sent. -/
def completing : State :=
  { State.reset with
    txState := .completing, txBusy := true, txCIe := true, txBuf := [(0, 0x41)], txLen := 1, txSent := 1,
    pmCount := [0, 0, 1, 0] }

/-- A frame being collected, in a buffer of some length. -/
def collecting (bufLen : Nat) (bytes : List Byte) : State :=
  { State.reset with
    cfg := { Config.reference with rxBufLen := bufLen }, rxState := .collecting, rxBlock := false, rxByteIe := true,
    rxEofIe := true, rxBuf := Memory.setAll [] 0 bytes, rxLen := bytes.length }

/-- A completed frame. -/
def received (bytes : List Byte) : State :=
  { State.reset with rxValid := true, rxBuf := Memory.setAll [] 0 bytes, rxLen := bytes.length }

/-- A ring of 8 bytes. -/
def ringOf (rd wr : Nat) (mem : Memory) : State := { State.reset with ringRd := rd, ringWr := wr, ringMem := mem }

/-- The ring after V-R1: the record "Hi". -/
def ringHi : State := ringOf 0 3 [(0, 0x03), (1, 0x48), (2, 0x69)]

/-! ### Well-formedness smoke -/

theorem test_text_of_256_bytes_is_ill_formed : (Instr.serStart (List.replicate 256 0x41)).wellFormed = false := by
  rw [Instr.wellFormed, List.length_replicate]
  decide
theorem test_message_of_256_bytes_is_ill_formed : (Instr.ringPush (List.replicate 256 0x41)).wellFormed = false := by
  rw [Instr.wellFormed, List.length_replicate]
  decide
theorem test_invalid_configurations : [
    { Config.reference with ringCap := 1 }, { Config.reference with ringCap := 12 },
    { Config.reference with ringCap := 512 }, { Config.reference with txBufLen := 256 },
    { Config.reference with rxBufLen := 1 }, { Config.reference with busPmLevel := 4 },
    { Config.reference with txPmLevel := 4 }, { Config.reference with pmBlockBound := 0 },
    { Config.reference with eofMarker := 0x23 }, { Config.reference with sofMarker := 0x00 },
    { Config.reference with eofMarker := 0x00 }].any Config.valid = false := by decide
theorem test_ill_formed_states : [
    busIn .reserved, { State.reset with txState := .reserved }, { State.reset with txBusy := true },
    { State.reset with txBlIe := true }, { State.reset with txCIe := true }, { State.reset with txSent := 1 },
    { State.reset with txLen := 17 }, { completing with txSent := 0 }, { State.reset with rxState := .decoding },
    { State.reset with rxState := .reserved }, { State.reset with rxBlock := false },
    { State.reset with rxByteIe := true }, { State.reset with rxEofIe := true }, collecting 16 [],
    collecting 16 [0x24], { collecting 16 [0x23] with rxValid := true },
    { State.reset with rxValid := true, rxLen := 16 }, { State.reset with rxLen := 17 }, ringOf 8 0 [], ringOf 0 8 [],
    ringOf 0 0 [(1, 0), (0, 0)], ringOf 0 0 [(8, 0)], { State.reset with txBuf := [(16, 0)] },
    { State.reset with rxBuf := [(16, 0)] }].any State.wellFormed = false := by decide

/-! ### Decoding: words written out from R82 to R87 (V-E1 to V-E20) -/

theorem test_decode_bus_start : decode .host [0x0140E302, 0x20000000] = .op (.busStart 0x40 0xE3 2 0x20000000) [] := by
  decide
theorem test_decode_ser_start : decode .host [0x02000004, 0x44434241, 7] = .op (.serStart [0x41, 0x42, 0x43, 0x44]) [7] := by
  decide
theorem test_decode_ring_push :
    decode .host [0x03000005, 0x6C6C6548, 0x0000006F] = .op (.ringPush [0x48, 0x65, 0x6C, 0x6C, 0x6F]) [] := by decide
theorem test_decode_empty_push : decode .host [0x03000000] = .op (.ringPush []) [] := by decide
theorem test_decode_ring_pop : decode .host [0x04000001] = .op (.ringPop true) [] ∧
    decode .host [0x04000000] = .op (.ringPop false) [] := by decide
theorem test_decode_host_queries : decode .host [0x05000000] = .op .ringSpace [] ∧
    decode .host [0x06000000] = .op .ringOccupied [] ∧ decode .host [0x07000000] = .op .rxText [] := by decide
theorem test_decode_bus_conditions : decode .bus [0x10000000] = .op .busAck [] ∧
    decode .bus [0x11000000] = .op .busNack [] ∧ decode .bus [0x12000066] = .op (.busData 0x66) [] ∧
    decode .bus [0x13000000] = .op .busStop [] := by decide
theorem test_decode_tx_conditions : decode .tx [0x20000000] = .op .txByteReady [] ∧
    decode .tx [0x21000000] = .op .txComplete [] := by decide
theorem test_decode_rx_conditions : decode .rx [0x30000000] = .op .rxStartFrame [] ∧
    decode .rx [0x31000048] = .op (.rxByte 0x48) [] ∧ decode .rx [0x32000000] = .op .rxEndFrame [] ∧
    decode .rx [0x33000023] = .op (.rxLine 0x23) [] := by decide
/-- V-E8 to V-E19; the words left after an illegal one are log 8's. -/
theorem test_decode_illegal : decode .host [0x00000000] = .illegal 0x0000 [] ∧
    decode .host [0x10000000] = .illegal 0x1000 [] ∧ decode .bus [0x05000000] = .illegal 0x0500 [] ∧
    decode .host [0x05000001] = .illegal 0x0500 [] ∧
    decode .host [0x01C0E302, 0x20000000] = .illegal 0x01C0 [0x20000000] ∧
    decode .host [0x0140E322, 0x20000000] = .illegal 0x0140 [0x20000000] ∧
    decode .host [0x03000001, 0x00004241] = .illegal 0x0300 [] ∧
    decode .bus [0x12000100] = .illegal 0x1200 [] ∧ decode .host [0x04000002] = .illegal 0x0400 [] ∧
    decode .tx [0x22000000] = .illegal 0x2200 [] ∧ decode .rx [0x34000000] = .illegal 0x3400 [] ∧
    decode .host [0x08000000] = .illegal 0x0800 [] := by decide
theorem test_encode_examples : encode (.busStart 0x40 0xE3 2 0x20000000) = [0x0140E302, 0x20000000] ∧
    encode (.ringPush [0x48, 0x69]) = [0x03000002, 0x00006948] ∧ encode (.rxLine 0x23) = [0x33000023] := by decide
theorem test_incomplete_words : decode .host [0x0140E302] = .incomplete ∧
    decode .host [0x03000005, 0x6C6C6548] = .incomplete ∧ decode .rx [] = .incomplete := by decide
theorem test_table_word : decodeTableWord 64 0x200000000140E302 = some (.busStart 0x40 0xE3 2 0x20000000) ∧
    decodeTableWord 32 0x03000004 = some (.ringPush [0, 0, 0, 0]) ∧ decodeTableWord 32 0x08000000 = none := by decide
theorem test_fetch_word : leaves (step (State.reset.withFetchWord 32 0x10000000)) (fun t =>
    decide (t.faultCode = 2 ∧ t.faultInfo = 0x0010)) = true := by decide
/-- The lines of R93. -/
theorem test_assembly : (Instr.busStart 0x40 0xE3 2 7).assembly = "host: BUS_START 64, 227, 2, 7" ∧
    (Instr.ringPush [0x48, 0x69]).assembly = "host: RING_PUSH [72, 105]" := by decide

/-! ### Operations -/

/-- V-B29. -/
theorem test_bus_start : leaves (exec (.busStart 0x40 0xE3 2 0x20000000) State.reset) (fun t => decide (
    t.busState = .selectDevice ∧ t.trace = [.pmBlock 1, .busCmd (.sel 0x80)])) = true := by decide
/-- V-B35. -/
theorem test_bus_start_busy : leaves (exec (.busStart 0x40 0xE3 2 0x20000000) (busIn .done)) (fun t => decide (
    t.faultCode = 1 ∧ t.faultInfo = 0x0601)) = true := by decide
/-- V-B9. -/
theorem test_bus_ack : leaves (exec .busAck (busIn .sendCommand)) (fun t => decide (
    t.busState = .confirmSelect ∧ t.trace = [.busCmd (.sel 0x81)])) = true := by decide
/-- V-B1. -/
theorem test_bus_ack_idle : leaves (exec .busAck (busIn .idle)) (fun t => decide (
    t.faultCode = 2 ∧ t.faultInfo = 0x0010)) = true := by decide
/-- V-B14. -/
theorem test_bus_nack : leaves (exec .busNack (busIn .confirmSelect)) (fun t => decide (
    t.busState = .confirmSelect ∧ t.trace = [.busCmd (.sel 0x81)])) = true := by decide
/-- V-B10. -/
theorem test_bus_nack_command : leaves (exec .busNack (busIn .sendCommand)) (fun t => decide (
    t.faultCode = 2 ∧ t.faultInfo = 0x0211)) = true := by decide
/-- V-B26. -/
theorem test_bus_data : leaves (exec (.busData 0x4C) (busIn .receiveLow)) (fun t => decide (
    t.busState = .done ∧ t.trace = [.destWrite 0x20000000 0x664C, .busCmd .nack, .busCmd .stop])) = true := by decide
/-- V-B28. -/
theorem test_bus_stop : leaves (exec .busStop (busIn .done)) (fun t => decide (
    t.busState = .idle ∧ t.trace = [.pmUnblock 1, .post 2])) = true := by decide
/-- V-T1. -/
theorem test_ser_start : leaves (exec (.serStart [0x41, 0x41, 0x41]) State.reset) (fun t => decide (
    t.txState = .sending ∧ t.txBuf = [(0, 0x41), (1, 0x41), (2, 0x41)] ∧ t.txLen = 3 ∧ t.trace = [.pmBlock 2])) = true := by
  decide
/-- V-T17. -/
theorem test_ser_start_term : refusal (exec (.serStart [0x41, 0x00]) State.reset) = some .textHasTerm := by decide
/-- V-T7. -/
theorem test_tx_byte_ready : leaves (exec .txByteReady (sending [0x41, 0x42, 0x43] 2)) (fun t => decide (
    t.txState = .completing ∧ t.txSent = 3 ∧ t.txBlIe = false ∧ t.txCIe = true ∧ t.trace = [.txByte 0x43])) = true := by
  decide
/-- V-T13. -/
theorem test_tx_byte_ready_empty : leaves (exec .txByteReady (sending [] 0)) (fun t => decide (
    t.txState = .completing ∧ t.txSent = 0 ∧ t.trace = [])) = true := by decide
/-- V-T9. -/
theorem test_tx_complete : leaves (exec .txComplete completing) (fun t => decide (
    t.txState = .idle ∧ t.txBusy = false ∧ t.txCIe = false ∧ t.trace = [.pmUnblock 2, .post 1])) = true := by decide
/-- V-X10. -/
theorem test_rx_start_frame : leaves (exec .rxStartFrame (collecting 16 [0x23, 0x61, 0x62])) (fun t => decide (
    t.rxState = .collecting ∧ t.rxLen = 1 ∧ t.rxBuf.get? 0 = some 0x23)) = true := by decide
/-- V-X13. -/
theorem test_rx_byte_full : leaves (exec (.rxByte 0x64) (collecting 4 [0x23, 0x61, 0x62, 0x63])) (fun t => decide (
    t.faultCode = 5 ∧ t.faultInfo = 0x0031)) = true := by decide
/-- V-X15. -/
theorem test_rx_end_frame : leaves (exec .rxEndFrame (collecting 4 [0x23, 0x61, 0x21])) (fun t => decide (
    t.rxState = .idle ∧ t.rxBuf.get? 3 = some 0 ∧ t.rxLen = 3 ∧ t.rxValid = true ∧ t.trace = [.post 3])) = true := by
  decide
/-- V-X18. -/
theorem test_rx_line : leaves (exec (.rxLine 0x21) (collecting 16 [0x23, 0x61])) (fun t => decide (
    t.rxFrame = [0x23, 0x61, 0x21] ∧ t.rxBuf.get? 3 = some 0 ∧ t.rxState = .idle ∧ t.trace = [.post 3])) = true := by
  decide
/-- V-X7. -/
theorem test_rx_text : leaves (exec .rxText (received [0x23, 0x48, 0x21])) (fun t => decide (
    t.trace = [.result (.text [0x23, 0x48, 0x21])])) = true := by decide
/-- V-R14. -/
theorem test_ring_push_wraps : leaves (exec (.ringPush [0x78, 0x79, 0x7A]) (ringOf 6 6 [])) (fun t => decide (
    t.ringMem = [(0, 0x79), (1, 0x7A), (6, 0x04), (7, 0x78)] ∧ t.ringWr = 2)) = true := by decide
/-- V-R3. -/
theorem test_ring_push_overflow : leaves (exec (.ringPush [1, 2, 3, 4, 5, 6, 7]) State.reset) (fun t => decide (
    t.faultCode = 3 ∧ t.faultInfo = 0x0703)) = true := by decide
/-- V-R2. -/
theorem test_ring_pop_sink : leaves (exec (.ringPop true) ringHi) (fun t => decide (
    t.ringRd = 3 ∧ t.trace = [.sinkOut [0x48, 0x69, 0x00], .result (.empty false)])) = true := by decide
/-- V-R12. -/
theorem test_ring_pop_transmitter : leaves (exec (.ringPop false) ringHi) (fun t => decide (
    t.ringRd = 3 ∧ t.txBuf = [(0, 0x48), (1, 0x69)] ∧ t.trace = [.pmBlock 2, .result (.empty false)])) = true := by decide
/-- V-R8. -/
theorem test_ring_queries : leaves (exec .ringSpace (ringOf 6 2 [])) (fun t => decide (
    t.trace = [.result (.count 4)])) = true ∧ leaves (exec .ringOccupied (ringOf 6 2 [])) (fun t => decide (
    t.trace = [.result (.count 4)])) = true := by decide

/-! ### Environment -/

/-- V-S2, V-S3. -/
theorem test_scheduler : ({ State.reset with eventMask := 4 } : State).clearEvent 1 = { State.reset with eventMask := 4 } ∧
    (((State.reset.postEvent 1).postEvent 3).clearEvent 1).eventMask = 8 := by decide
/-- V-M1 to V-M3. -/
theorem test_arbiter : State.reset.deepestAllowed = 3 ∧
    ({ State.reset with pmCount := [0, 1, 0, 0] } : State).deepestAllowed = 1 ∧
    ({ State.reset with pmCount := [0, 1, 1, 0] } : State).deepestAllowed = 1 ∧
    ({ State.reset with pmCount := [0, 0, 1, 0] } : State).deepestAllowed = 2 := by decide
/-- V-M4, V-M5. -/
theorem test_imbalance : State.reset.unblockLevel 2 = .raise .pmImbalance 2 ∧
    ({ State.reset with cfg := { Config.reference with pmBlockBound := 2 }, pmCount := [2, 0, 0, 0] } : State).blockLevel 0 =
      .raise .pmImbalance 0 := by decide

/-! ### Witnesses: for every statement with hypotheses, states and operands that meet them, clause by clause -/

/-- The states of the bus engine that R22 names. -/
def busStates : List BusState := [.idle, .selectDevice, .sendCommand, .confirmSelect, .receiveHigh, .receiveLow, .done]

/-- The bus statements' hypotheses: in each of the seven states there is a ready state. -/
theorem witness_bus_states : busStates.all (fun b => (busIn b).ready && decide ((busIn b).busState = b)) = true := by
  decide

theorem witness_DecodeReadsBackEncode : (Instr.serStart []).wellFormed = true ∧
    (Instr.ringPush (List.replicate 255 0x41)).wellFormed = true := by
  rw [Instr.wellFormed, Instr.wellFormed, List.length_replicate]
  decide

theorem witness_DecodedWordsAreTheEncoding : decode .host [0x03000002, 0x00006948, 9] = .op (.ringPush [0x48, 0x69]) [9] := by
  decide

theorem witness_DecodedWordMatchesItsOneRow : decode .host [0x017F001F, 0xFFFFFFFF] = .op (.busStart 0x7F 0 31 0xFFFFFFFF) [] := by
  decide

/-- A reserved bit, a reserved opcode and a wrong port. -/
theorem witness_UnmatchedWordRaisesIllegalOp :
    (∀ row ∈ opcodeMap, row.selects 0x05000001 = true → row.port ≠ .host) ∧
    (∀ row ∈ opcodeMap, row.selects 0x22000000 = true → row.port ≠ .tx) ∧
    (∀ row ∈ opcodeMap, row.selects 0x10000000 = true → row.port ≠ .host) ∧
    State.reset.halted = false ∧ State.reset.asleep = none := by decide

/-- The first and the last padding byte of one payload word. -/
theorem witness_NonzeroPaddingRaisesIllegalOp :
    (0x03000001#32 &&& 0xFFFFFF00#32 = 0x03000000#32) ∧ (0x02000001#32 &&& 0xFFFFFF00#32 = 0x02000000#32) ∧
    ((0x03000001#32).extractLsb' 0 8).toNat = 1 ∧
    ([0x00004241#32].getD (1 / 4) 0).extractLsb' (8 * (1 % 4)) 8 ≠ 0#8 ∧
    ([0x01000041#32].getD (3 / 4) 0).extractLsb' (8 * (3 % 4)) 8 ≠ 0#8 := by decide

/-- An awake block that is not halted, and an operation on each port. -/
theorem witness_StepPerformsTheDecodedOperation :
    ∀ p ∈ [Port.host, .bus, .tx, .rx], State.reset.halted = false ∧ State.reset.asleep = none ∧
      decode p (({ State.reset with
        schedule := [.port p], hostPort := [0x05000000], busPort := [0x10000000], txPort := [0x20000000],
        rxPort := [0x30000000] } : State).portWords p) ≠ .incomplete := by decide

theorem witness_HaltedBlockHasNoStep : (State.reset.halt .busProtocol 0x0010).faultCode ≠ 0 ∧
    (State.reset.halt .busProtocol 0x0010).schedule ≠ .powerCycle :: [] := by decide

theorem witness_PowerCycleRestoresReset : ({ busIn .done with schedule := [.powerCycle, .wake], faultCode := 2 } : State).schedule =
    .powerCycle :: [.wake] := by decide

/-- The least and the greatest sizes. -/
theorem witness_ResetMeetsTheInvariants : Config.reference.valid = true ∧
    ({ Config.reference with ringCap := 2, txBufLen := 0, rxBufLen := 2 } : Config).valid = true ∧
    ({ Config.reference with ringCap := 256, txBufLen := 255, rxBufLen := 1000 } : Config).valid = true := by decide

theorem witness_IllFormedStateRefused : (busIn .reserved).faultCode = 0 ∧ (busIn .reserved).wellFormed = false := by decide

/-- One operation of each port that faults. -/
theorem witness_FaultsArePreciseAndListed : State.reset.faultCode = 0 ∧
    leaves (exec .busAck State.reset) (fun t => t.faultCode != 0) = true ∧
    leaves (exec (.serStart (List.replicate 17 0x41)) State.reset) (fun t => t.faultCode != 0) = true ∧
    leaves (exec (.ringPop true) (ringOf 0 2 [(0, 5)])) (fun t => t.faultCode != 0) = true ∧
    leaves (exec .rxEndFrame (collecting 3 [0x23, 0x61, 0x21])) (fun t => t.faultCode != 0) = true := by decide

/-- A cause of each operation that can fault: at the ends of their ranges. -/
theorem witness_FaultsArePreciseAndListed_causes :
    ((busIn .done).ready = true ∧ faultAllowed (busIn .done) (.busStart 0 0 0 0) .busNotIdle 0x0601) ∧
    ((busIn .receiveLow).ready = true ∧ faultAllowed (busIn .receiveLow) .busNack .busProtocol 0x0511) ∧
    (State.reset.ready = true ∧ faultAllowed State.reset (.serStart (List.replicate 17 0x41)) .txOverflow 0x1102) ∧
    faultAllowed State.reset (.ringPush (List.replicate 7 0x41)) .ringOverflow 0x0703 ∧
    ((ringOf 0 2 [(0, 3)]).ready = true ∧ faultAllowed (ringOf 0 2 [(0, 3)]) (.ringPop true) .ringCorrupt 0x0304) ∧
    (({ ringHi with cfg := { Config.reference with txBufLen := 1 } } : State).ready = true ∧
      faultAllowed { ringHi with cfg := { Config.reference with txBufLen := 1 } } (.ringPop false) .txOverflow 0x0202) ∧
    ((collecting 2 [0x23, 0x61]).ready = true ∧
      faultAllowed (collecting 2 [0x23, 0x61]) (.rxByte 0x62) .rxOverflow 0x0031 ∧
      faultAllowed (collecting 2 [0x23, 0x61]) .rxEndFrame .rxOverflow 0x0032) ∧
    ((collecting 2 [0x23]).ready = true ∧ faultAllowed (collecting 2 [0x23]) (.rxLine 0x21) .rxOverflow 0x0032) := by
  simp only [faultAllowed]
  refine ⟨?_, ?_, ?_, ?_, ?_, ?_, ?_, ?_⟩ <;> decide

theorem witness_FieldsChangeOnlyByTheirWriters : leaves (exec (.busData 0x66) (busIn .receiveHigh)) (fun t =>
    decide (t.busHi = 0x66 ∧ t.busState ≠ .receiveHigh)) = true := by decide

theorem witness_BusConditionsGoOnExactlyPerTable : (busIn .done).ready = true ∧ Instr.busStop.port = .bus := by decide

theorem witness_BusTransactions : State.reset.ready = true ∧ State.reset.busState = .idle ∧
    leaves (exec (.busStart 0x7F 0xE3 31 0xFFFFFFFF) State.reset) (fun _ => true) = true ∧
    (∀ c ∈ busTransaction 1 2 0x66 0x4C, c.port = .bus) ∧ (∀ c ∈ [Instr.busStop], c.port = .bus) := by decide

theorem witness_BusTransactions_other_order (n m : Nat) (hi lo : Byte) : ¬ [Instr.busStop] <+: busTransaction n m hi lo := by
  cases n <;> simp [busTransaction, List.replicate_succ]

/-- In flight; a terminator; one byte too many; the most bytes; none. -/
theorem witness_SerStartCopiesBlocksAndEnables : (sending [0x41] 0).ready = true ∧ (sending [0x41] 0).txBusy = true ∧
    State.reset.ready = true ∧ State.reset.txBusy = false ∧ State.reset.cfg.term ∈ [0x41#8, 0x00#8] ∧
    State.reset.cfg.term ∉ List.replicate 17 0x41#8 ∧ State.reset.cfg.txBufLen < (List.replicate 17 0x41#8).length ∧
    State.reset.cfg.term ∉ List.replicate 16 0x41#8 ∧ (List.replicate 16 0x41#8).length ≤ State.reset.cfg.txBufLen ∧
    State.reset.cfg.term ∉ ([] : List Byte) := by decide

theorem witness_HeldStartWaitsOnTheHostPort : (sending [0x41] 0).ready = true ∧ (sending [0x41] 0).asleep = none ∧
    (sending [0x41] 0).txBusy = true ∧ decode .host [0x02000001, 0x00000042] = .op (.serStart [0x42]) [] := by decide

/-- Gated; a byte before the last; the last; none left. -/
theorem witness_TxByteReadySendsTheNextByte : State.reset.ready = true ∧ State.reset.txBlIe = false ∧
    (sending [0x41, 0x42] 0).ready = true ∧ (sending [0x41, 0x42] 0).txBlIe = true ∧
    (sending [0x41, 0x42] 0).txSent.toNat + 1 < (sending [0x41, 0x42] 0).txLen.toNat ∧
    (sending [0x41, 0x42] 1).ready = true ∧
    (sending [0x41, 0x42] 1).txSent.toNat + 1 = (sending [0x41, 0x42] 1).txLen.toNat ∧
    (sending [] 0).ready = true ∧ (sending [] 0).txSent = (sending [] 0).txLen := by decide

theorem witness_TxCompleteEndsTheTransmission : State.reset.ready = true ∧ State.reset.txCIe = false ∧
    completing.ready = true ∧ completing.txCIe = true := by decide

theorem witness_GatedConditionsAreDiscarded : State.reset.ready = true ∧ State.reset.txBlIe = false ∧
    State.reset.txCIe = false ∧ State.reset.rxBlock = true ∧ State.reset.rxByteIe = false ∧
    State.reset.rxEofIe = false := by decide

theorem witness_TransmissionEmitsTheTextInOrder : State.reset.ready = true ∧ State.reset.txBusy = false ∧
    State.reset.cfg.term ∉ List.replicate 16 0x41#8 ∧ (List.replicate 16 0x41#8).length ≤ State.reset.cfg.txBufLen ∧
    State.reset.cfg.term ∉ ([] : List Byte) ∧ ([] : List Byte).length ≤ State.reset.cfg.txBufLen := by decide

theorem witness_RxStartFrameBeginsOrRestarts : State.reset.ready = true ∧ State.reset.rxState = .idle ∧
    (collecting 2 [0x23, 0x61]).ready = true ∧ (collecting 2 [0x23, 0x61]).rxState = .collecting := by decide

/-- Gated; full; one slot left. -/
theorem witness_RxByteAppendsOrFaults : State.reset.ready = true ∧ State.reset.rxBlock = true ∧
    (collecting 2 [0x23, 0x61]).ready = true ∧ (collecting 2 [0x23, 0x61]).rxBlock = false ∧
    (collecting 2 [0x23, 0x61]).rxByteIe = true ∧
    (collecting 2 [0x23, 0x61]).rxLen = (collecting 2 [0x23, 0x61]).cfg.rxBufLen ∧
    (collecting 2 [0x23]).ready = true ∧ (collecting 2 [0x23]).rxBlock = false ∧ (collecting 2 [0x23]).rxByteIe = true ∧
    (collecting 2 [0x23]).rxLen + 1 = (collecting 2 [0x23]).cfg.rxBufLen := by decide

theorem witness_RxEndFrameCompletesTheFrame : State.reset.ready = true ∧ State.reset.rxEofIe = false ∧
    (collecting 2 [0x23, 0x21]).ready = true ∧ (collecting 2 [0x23, 0x21]).rxEofIe = true ∧
    (collecting 2 [0x23, 0x21]).rxLen = (collecting 2 [0x23, 0x21]).cfg.rxBufLen ∧
    (collecting 2 [0x23]).ready = true ∧ (collecting 2 [0x23]).rxEofIe = true ∧
    (collecting 2 [0x23]).rxLen + 1 = (collecting 2 [0x23]).cfg.rxBufLen := by decide

/-- The start marker; a byte while idle; full; another byte into the last slot; the end marker into the last slot; the
end marker with exactly the terminator's slot behind it. -/
theorem witness_RxLinePerformsTheDetectors : Config.reference.sofMarker = 0x23 ∧ Config.reference.eofMarker = 0x21 ∧
    State.reset.ready = true ∧ State.reset.rxState = .idle ∧
    (collecting 2 [0x23, 0x61]).ready = true ∧ (collecting 2 [0x23, 0x61]).rxState = .collecting ∧
    (collecting 2 [0x23, 0x61]).rxLen = (collecting 2 [0x23, 0x61]).cfg.rxBufLen ∧
    (collecting 2 [0x23]).ready = true ∧ (collecting 2 [0x23]).rxState = .collecting ∧
    (collecting 2 [0x23]).rxLen < (collecting 2 [0x23]).cfg.rxBufLen ∧
    (collecting 2 [0x23]).rxLen + 1 = (collecting 2 [0x23]).cfg.rxBufLen ∧
    (collecting 3 [0x23]).ready = true ∧ (collecting 3 [0x23]).rxState = .collecting ∧
    (collecting 3 [0x23]).rxLen + 2 = (collecting 3 [0x23]).cfg.rxBufLen := by decide

/-- The start marker, another byte and the end marker, none of which faults. -/
theorem witness_RxLineIsTheDeliveryContract : (collecting 3 [0x23]).ready = true ∧
    ∀ b ∈ [0x23#8, 0x61, 0x21], leaves (exec (.rxLine b) (collecting 3 [0x23])) (fun t => t.faultCode == 0) = true := by
  decide

/-- A frame; no frame; a frame with a terminator. -/
theorem witness_RxTextReturnsTheFrameOrADraw : (received [0x23, 0x21]).ready = true ∧
    (received [0x23, 0x21]).rxValid = true ∧
    (received [0x23, 0x21]).cfg.term ∉ (List.range (received [0x23, 0x21]).rxLen).map (received [0x23, 0x21]).rxRead ∧
    State.reset.ready = true ∧ State.reset.rxValid = false ∧ (received [0x23, 0x00]).ready = true ∧
    (received [0x23, 0x00]).cfg.term ∈ (List.range (received [0x23, 0x00]).rxLen).map (received [0x23, 0x00]).rxRead := by
  decide

/-- The longest body and the empty one. -/
theorem witness_FrameIsDecodedFromLineBytes : State.reset.ready = true ∧ State.reset.rxState = .idle ∧
    State.reset.cfg.sofMarker ∉ [0x61#8] ∧ State.reset.cfg.sofMarker ∉ [0x64#8, 0x65, 0x66] ∧
    State.reset.cfg.sofMarker ∉ List.replicate 13 0x48#8 ∧ State.reset.cfg.eofMarker ∉ List.replicate 13 0x48#8 ∧
    State.reset.cfg.term ∉ List.replicate 13 0x48#8 ∧
    (List.replicate 13 0x48#8).length + 3 = State.reset.cfg.rxBufLen ∧
    ([] : List Byte).length + 3 ≤ State.reset.cfg.rxBufLen := by decide

theorem witness_DuplicateStartMarkerRestartsTheFrame : (collecting 4 [0x23, 0x61, 0x62]).ready = true ∧
    (collecting 4 [0x23, 0x61, 0x62]).rxState = .collecting ∧
    [0x63#8, 0x64, 0x65].length + 1 = (collecting 4 [0x23, 0x61, 0x62]).cfg.rxBufLen := by decide

/-- One byte too many, and the most that fits, at a wrap of the indices. -/
theorem witness_RingPushStoresHeaderAndMessage : (ringOf 6 6 []).ready = true ∧
    (ringOf 6 6 []).space < (List.replicate 7 0x41#8).length + 2 ∧
    (List.replicate 6 0x41#8).length + 2 = (ringOf 6 6 []).space := by decide

/-- The sentinel, busy and empty; a header of 0 and one too large; the test sink; the transmitter with a terminator, one
byte too many and the most bytes. -/
theorem witness_RingPopReturnsOneRecord :
    (sending [0x41] 0).ready = true ∧ (sending [0x41] 0).txBusy = true ∧ State.reset.ready = true ∧ State.reset.occ = 0 ∧
    (ringOf 0 2 [(0, 0)]).ready = true ∧ (ringOf 0 2 [(0, 0)]).occ ≠ 0 ∧ (ringOf 0 2 [(0, 0)]).ringRead 0 = 0 ∧
    (ringOf 0 2 [(0, 3)]).ready = true ∧ (ringOf 0 2 [(0, 3)]).occ < ((ringOf 0 2 [(0, 3)]).ringRead 0).toNat ∧
    ringHi.ready = true ∧ ringHi.txBusy = false ∧ (ringHi.ringRead ringHi.ringRd).toNat = ringHi.occ ∧
    ringHi.cfg.term ∉ [0x48#8, 0x69] ∧ [0x48#8, 0x69].length ≤ ringHi.cfg.txBufLen ∧
    (ringOf 0 2 [(0, 2), (1, 0)]).ready = true ∧ (ringOf 0 2 [(0, 2), (1, 0)]).ringRead 1 = Config.reference.term ∧
    ({ ringHi with cfg := { Config.reference with txBufLen := 1 } } : State).ready = true ∧
    (1 < [0x48#8, 0x69].length) := by decide

theorem witness_RingQueriesCountModuloCapacity : (ringOf 6 2 []).ready = true ∧ (ringOf 7 7 []).ready = true := by decide

theorem witness_SpaceAndOccupancyAddUp : (ringOf 6 2 []).wellFormed = true ∧ (ringOf 7 7 []).wellFormed = true := by decide

/-- A message of `C - 2` bytes, of none and of `C - 1`. -/
theorem witness_PushThenPopYieldsTheMessage : (ringOf 6 6 []).ready = true ∧ (ringOf 6 6 []).occ = 0 ∧
    (ringOf 6 6 []).txBusy = false ∧ (List.replicate 6 0x41#8).length < (ringOf 6 6 []).cfg.ringCap - 1 ∧
    ([] : List Byte).length < (ringOf 6 6 []).cfg.ringCap - 1 ∧
    (List.replicate 7 0x41#8).length = (ringOf 6 6 []).cfg.ringCap - 1 := by decide

/-- Other operations between the push and the pop, none of which faults. -/
theorem witness_PushThenPopYieldsTheMessage_between :
    (∀ i ∈ [Instr.ringSpace, .rxLine 0x23], (∀ m, i ≠ .ringPush m) ∧ ∀ b, i ≠ .ringPop b) ∧
    leaves (runAll (.ringPush [0x48, 0x69] :: [.ringSpace, .rxLine 0x23]) (ringOf 6 6 [])) (fun u =>
      decide (u.faultCode = 0 ∧ u.txBusy = false)) = true := by
  refine ⟨by simp, by decide⟩

/-- A ring with a record, the largest message that still fits, and a record the transmitter takes. -/
theorem witness_RingIsAQueueOfMessages : ringHi.ready = true ∧ ringHi.ringQueue = some [[0x48, 0x69]] ∧
    [0x61#8, 0x62, 0x63].length + 2 = ringHi.space ∧ ringHi.txBusy = false ∧ ringHi.cfg.term ∉ [0x48#8, 0x69] ∧
    State.reset.ringQueue = some [] := by decide

theorem witness_WholeRecordsAreNeverCorrupt : ringHi.ready = true ∧ ringHi.ringWhole = true ∧
    leaves (exec (.ringPop true) ringHi) (fun _ => true) = true := by decide

/-- A step that performs an operation and keeps what the invariants say. -/
theorem witness_StepKeepsInvariants : ringHi.wellFormed = true ∧ ringHi.ringWhole = true ∧ ringHi.powerPaired = true ∧
    leaves (step { ringHi with schedule := [.port .host], hostPort := [0x04000000] }) (fun t =>
      decide (t.txState = .sending ∧ t.pmCount = [0, 0, 1, 0] ∧ t.hostPort = [])) = true := by decide

theorem witness_ConditionsOfDifferentEnginesCommute :
    leaves (runAll [.busAck, .txByteReady] { sending [0x41] 0 with busState := .selectDevice }) (fun t =>
      t.faultCode == 0) = true ∧
    leaves (runAll [.txByteReady, .busAck] { sending [0x41] 0 with busState := .selectDevice }) (fun t =>
      t.faultCode == 0) = true ∧
    leaves (runAll [.busAck, .rxLine 0x23] { State.reset with busState := .selectDevice }) (fun t =>
      t.faultCode == 0) = true ∧
    leaves (runAll [.rxLine 0x23, .busAck] { State.reset with busState := .selectDevice }) (fun t =>
      t.faultCode == 0) = true ∧
    leaves (runAll [.txByteReady, .rxLine 0x23] (sending [0x41] 0)) (fun t => t.faultCode == 0) = true ∧
    leaves (runAll [.rxLine 0x23, .txByteReady] (sending [0x41] 0)) (fun t => t.faultCode == 0) = true ∧
    Instr.busAck.port = .bus ∧ Instr.txByteReady.port = .tx ∧ (Instr.rxLine 0x23).port = .rx := by decide

theorem witness_EventsAreLevelTriggeredFlags : ({ State.reset with eventMask := 4 } : State).eventMask.getLsbD (1 : BitVec 5).toNat =
    false := by decide

/-- One below the bound, at the bound, at 0. -/
theorem witness_ArbiterCountsWithinItsBound : 3 < State.reset.pmCount.length ∧
    ({ State.reset with pmCount := [0, 0, 0, 3] } : State).blockCount 3 + 1 = State.reset.cfg.pmBlockBound ∧
    ({ State.reset with pmCount := [0, 0, 0, 4] } : State).blockCount 3 = State.reset.cfg.pmBlockBound ∧
    0 < ({ State.reset with pmCount := [0, 0, 0, 1] } : State).blockCount 3 ∧ State.reset.blockCount 3 = 0 := by decide

theorem witness_BlockThenUnblockRestores : 3 < State.reset.pmCount.length ∧
    State.reset.blockLevel 3 = .done { State.reset with pmCount := [0, 0, 0, 1] } := by decide

theorem witness_DeepestAllowedIsTheLeastBlockedLevel : 0 < (busIn .done).blockCount 1 := by decide

theorem witness_DeepestAllowed_unblocked (l : Nat) : State.reset.blockCount l = 0 := by
  rcases l with _ | _ | _ | _ | l <;> rfl

theorem witness_SleepIsEnteredOnlyWithAnEmptyMask : State.reset.halted = false ∧ State.reset.asleep = none ∧
    State.reset.hostHeld = false ∧ State.reset.eventMask = 0 ∧ (State.reset.postEvent 31).eventMask ≠ 0 ∧
    ({ State.reset with asleep := some 3 } : State).asleep ≠ none := by decide

/-- Both engines on one level with a bound of 1: the bus engine holds the level, and the transmitter asks for it; and the
other way round. -/
def sharedLevel : Config := { Config.reference with txPmLevel := 1, pmBlockBound := 1 }

theorem witness_ImbalanceHaltsTheBlock :
    ({ sending [0x41] 0 with cfg := sharedLevel, pmCount := [0, 1, 0, 0] } : State).ready = true ∧
    (sending [0x41] 0).asleep = none ∧ (sending [0x41] 0).hostHeld = false ∧ (sending [0x41] 0).busState = .idle ∧
    decode .host [0x0140E302, 0x20000000] = .op (.busStart 0x40 0xE3 2 0x20000000) [] ∧
    sharedLevel.pmBlockBound ≤ ({ sending [0x41] 0 with pmCount := [0, 1, 0, 0] } : State).blockCount sharedLevel.busPmLevel ∧
    ({ ringHi with cfg := sharedLevel, busState := .done, pmCount := [0, 1, 0, 0] } : State).ready = true ∧
    ringHi.asleep = none ∧ ringHi.hostHeld = false ∧ ringHi.txBusy = false ∧
    decode .host [0x02000001, 0x00000041] = .op (.serStart [0x41]) [] ∧ sharedLevel.term ∉ [0x41#8] ∧
    decode .host [0x04000000] = .op (.ringPop false) [] ∧ (ringHi.ringRead ringHi.ringRd).toNat = 3 ∧ 3 ≤ ringHi.occ ∧
    (List.range 2).map (fun k => ringHi.ringRead ((ringHi.ringRd + 1 + k) % 8)) = [0x48, 0x69] ∧
    sharedLevel.term ∉ [0x48#8, 0x69] ∧
    sharedLevel.pmBlockBound ≤ ({ ringHi with pmCount := [0, 1, 0, 0] } : State).blockCount sharedLevel.txPmLevel := by
  decide

/-- The completion of each engine. -/
theorem witness_CompletionReachesSchedulerAndArbiter :
    (busIn .done).ready = true ∧ (busIn .done).asleep = none ∧ decode .bus [0x13000000] = .op .busStop [] ∧
    (busIn .done).busState = .done ∧ 0 < (busIn .done).blockCount (busIn .done).cfg.busPmLevel ∧
    completing.ready = true ∧ decode .tx [0x21000000] = .op .txComplete [] ∧ completing.txCIe = true ∧
    0 < completing.blockCount completing.cfg.txPmLevel ∧
    (collecting 3 [0x23, 0x21]).ready = true ∧ decode .rx [0x32000000] = .op .rxEndFrame [] ∧
    (collecting 3 [0x23, 0x21]).rxEofIe = true ∧
    (collecting 3 [0x23, 0x21]).rxLen < (collecting 3 [0x23, 0x21]).cfg.rxBufLen ∧
    (collecting 3 [0x23]).ready = true ∧ decode .rx [0x33000021] = .op (.rxLine 0x21) [] ∧
    (collecting 3 [0x23]).cfg.eofMarker = 0x21 ∧ (collecting 3 [0x23]).rxState = .collecting ∧
    (collecting 3 [0x23]).rxLen + 2 = (collecting 3 [0x23]).cfg.rxBufLen := by decide

/-- A condition that faults, one that is discarded and one that goes on: each leaves its port. -/
theorem witness_TakenConditionsAreConsumed :
    leaves (step { State.reset with schedule := [.port .bus], busPort := [0x10000000, 0x13000000] }) (fun t =>
      decide (t.faultCode = 2 ∧ t.busPort = [0x13000000])) = true ∧
    leaves (step { State.reset with schedule := [.port .tx], txPort := [0x20000000] }) (fun t =>
      decide (t.faultCode = 0 ∧ t.txPort = [])) = true ∧
    leaves (step { State.reset with schedule := [.port .rx], rxPort := [0x30000000] }) (fun t =>
      decide (t.rxState = .collecting ∧ t.rxPort = [])) = true := by decide

/-- A free host, a waiting one and a sleeping one. -/
theorem witness_EventMovesReachTheScheduler : State.reset.halted = false ∧ State.reset.hostHeld = false ∧
    State.reset.asleep = none ∧ State.reset.hold.halted = false ∧ State.reset.hold.hostHeld = true ∧
    ({ State.reset with asleep := some 3 } : State).halted = false ∧
    ({ State.reset with asleep := some 3 } : State).asleep ≠ none := by decide

end Sys2Proof.Tests
end

/-! PROOFS. The bus transaction engine (40_bus_engine.md): one equation per cell of the transition table R101, the table
as a function of the state and the condition, the condition sequences that lead back to `IDLE`, and the statements. -/

namespace Sys2Proof.Machine

/-! ### Select byte and result word -/

/-- The form in which R62 and R102 put two fields side by side is the concatenation. -/
theorem zeroExtend_shiftLeft_or_zeroExtend {m n : Nat} (x : BitVec m) (y : BitVec n) :
    (x.zeroExtend (m + n) <<< n) ||| y.zeroExtend (m + n) = x ++ y := by
  rw [BitVec.append_def]
  simp [BitVec.shiftLeftZeroExtend_eq]

theorem selByte_write (addr : BitVec 7) : selByte addr .write = addr ++ 0#1 :=
  zeroExtend_shiftLeft_or_zeroExtend addr 0#1

theorem selByte_read (addr : BitVec 7) : selByte addr .read = addr ++ 1#1 :=
  zeroExtend_shiftLeft_or_zeroExtend addr 1#1

theorem resultWord_eq_append (hi lo : Byte) : resultWord hi lo = hi ++ lo :=
  zeroExtend_shiftLeft_or_zeroExtend hi lo

/-- Settles O17: both forms are concatenations. -/
theorem selectByteAndResultWordLayout : Obligations.SelectByteAndResultWordLayout :=
  ⟨fun addr => ⟨selByte_write addr, selByte_read addr⟩, resultWord_eq_append⟩

/-! ### One equation per cell of the table R101 -/

section Cells

variable {s : State}

theorem exec_busStart_of_idle (hr : s.ready = true) (h : s.busState = .idle) (addr : BitVec 7) (cmd : Byte)
    (evt : BitVec 5) (dest : Word) :
    exec (.busStart addr cmd evt dest) s = .next { s with
      busAddr := addr, busCmd := cmd, busDest := dest, busEvt := evt, busState := .selectDevice,
      trace := s.trace ++ [.pmBlock s.cfg.busPmLevel, .busCmd (.sel (selByte addr .write))] } := by
  simp [exec, execBusStart, State.perform_of_ready hr, h, State.emit]

theorem exec_busStart_of_ne_idle (hr : s.ready = true) (h : s.busState ≠ .idle) (addr : BitVec 7) (cmd : Byte)
    (evt : BitVec 5) (dest : Word) :
    exec (.busStart addr cmd evt dest) s = .next (s.halt .busNotIdle (busFaultInfo s.busState 0x01)) := by
  simp [exec, execBusStart, State.perform_of_ready hr, h]

theorem exec_busAck_of_selectDevice (hr : s.ready = true) (h : s.busState = .selectDevice) :
    exec .busAck s =
      .next { s with busState := .sendCommand, trace := s.trace ++ [.busCmd (.wr s.busCmd)] } := by
  simp [exec, execBusAck, State.perform_of_ready hr, h, State.emit]

theorem exec_busAck_of_sendCommand (hr : s.ready = true) (h : s.busState = .sendCommand) :
    exec .busAck s = .next { s with
      busState := .confirmSelect, trace := s.trace ++ [.busCmd (.sel (selByte s.busAddr .read))] } := by
  simp [exec, execBusAck, State.perform_of_ready hr, h, State.emit]

theorem exec_busAck_of_confirmSelect (hr : s.ready = true) (h : s.busState = .confirmSelect) :
    exec .busAck s = .next { s with busState := .receiveHigh } := by
  simp [exec, execBusAck, State.perform_of_ready hr, h]

theorem exec_busNack_of_selectDevice (hr : s.ready = true) (h : s.busState = .selectDevice) :
    exec .busNack s = .next { s with trace := s.trace ++ [.busCmd (.sel (selByte s.busAddr .write))] } := by
  simp [exec, execBusNack, State.perform_of_ready hr, h, State.emit]

theorem exec_busNack_of_confirmSelect (hr : s.ready = true) (h : s.busState = .confirmSelect) :
    exec .busNack s = .next { s with trace := s.trace ++ [.busCmd (.sel (selByte s.busAddr .read))] } := by
  simp [exec, execBusNack, State.perform_of_ready hr, h, State.emit]

theorem exec_busData_of_receiveHigh (hr : s.ready = true) (h : s.busState = .receiveHigh) (b : Byte) :
    exec (.busData b) s =
      .next { s with busHi := b, busState := .receiveLow, trace := s.trace ++ [.busCmd .ack] } := by
  simp [exec, execBusData, State.perform_of_ready hr, h, State.emit]

theorem exec_busData_of_receiveLow (hr : s.ready = true) (h : s.busState = .receiveLow) (b : Byte) :
    exec (.busData b) s = .next { s with
      busState := .done,
      trace := s.trace ++ [.destWrite s.busDest (s.busHi ++ b), .busCmd .nack, .busCmd .stop] } := by
  simp [exec, execBusData, State.perform_of_ready hr, h, State.emit, resultWord_eq_append]

theorem exec_busStop_of_done (hr : s.ready = true) (h : s.busState = .done) :
    exec .busStop s = .next { s with
      busState := .idle, trace := s.trace ++ [.pmUnblock s.cfg.busPmLevel, .post s.busEvt] } := by
  simp [exec, execBusStop, State.perform_of_ready hr, h, State.emit]

end Cells

/-! ### The table as a function of the state and the condition -/

/-- R101: the state a condition leads to; `none` in a cell marked *fault* and for every operation that is no bus
condition. -/
def busNext : BusState → Instr → Option BusState
  | .selectDevice, .busAck => some .sendCommand
  | .selectDevice, .busNack => some .selectDevice
  | .sendCommand, .busAck => some .confirmSelect
  | .confirmSelect, .busAck => some .receiveHigh
  | .confirmSelect, .busNack => some .confirmSelect
  | .receiveHigh, .busData _ => some .receiveLow
  | .receiveLow, .busData _ => some .done
  | .done, .busStop => some .idle
  | _, _ => none

theorem busNext_isSome (st : BusState) (i : Instr) : (busNext st i).isSome = busTakes st i := by
  cases i <;> cases st <;> rfl

theorem busNext_eq_none_iff (st : BusState) (i : Instr) : busNext st i = none ↔ busTakes st i = false := by
  rw [← busNext_isSome, Option.isSome_eq_false_iff, Option.isNone_iff_eq_none]

/-- The fields of the bus engine and the trace may hold anything but the state code 7 in a ready state. -/
theorem State.ready_of_bus_fields {s : State} (hr : s.ready = true) {st : BusState} (hst : st ≠ .reserved)
    (addr : BitVec 7) (cmd : Byte) (dest : Word) (evt : BitVec 5) (hi : Byte) (tr : List Output) :
    ({ s with
      busState := st, busAddr := addr, busCmd := cmd, busDest := dest, busEvt := evt, busHi := hi,
      trace := tr } : State).ready = true := by
  obtain ⟨hh, hw⟩ := s.ready_iff.1 hr
  obtain ⟨hcfg, hshape, -, htx, hrx⟩ := s.wellFormed_iff.1 hw
  exact (State.ready_iff _).2 ⟨hh, (State.wellFormed_iff _).2 ⟨hcfg, hshape, (State.busOk_iff _).2 hst, htx, hrx⟩⟩

/-- A bus condition that goes on follows the table and leaves a ready state. -/
theorem Leaves.follows_busNext {s t : State} {i : Instr} (hp : i.port = .bus) (hr : s.ready = true) (h : Leaves s i t) :
    busNext s.busState i = some t.busState ∧ t.ready = true := by
  cases h with
  | selected h | commanded h | confirmed h | highByte _ h | lowByte _ h | stops h =>
    exact ⟨by rw [h]; rfl, State.ready_of_bus_fields hr (by decide) _ _ _ _ _ _⟩
  | retriesWrite h | retriesRead h => exact ⟨by simp only [h]; rfl, hr⟩
  | beginsFrame i hi | restartsFrame i hi => obtain rfl | rfl := hi <;> cases hp
  | appends i b hi => obtain rfl | rfl := hi <;> cases hp
  | discards i hi => simp [hp] at hi
  | _ => cases hp

/-- R259: a bus condition is always taken. -/
theorem exec_bus_next {s : State} {i : Instr} (hr : s.ready = true) (hp : i.port = .bus) :
    ∃ t, exec i s = .next t := by
  cases i with
  | busAck => simp only [exec, execBusAck, State.perform_of_ready hr]; split <;> exact ⟨_, rfl⟩
  | busNack => simp only [exec, execBusNack, State.perform_of_ready hr]; split <;> exact ⟨_, rfl⟩
  | busData b => simp only [exec, execBusData, State.perform_of_ready hr]; split <;> exact ⟨_, rfl⟩
  | busStop => simp only [exec, execBusStop, State.perform_of_ready hr]; split <;> exact ⟨_, rfl⟩
  | _ => cases hp

/-- The fault R251 allows a bus condition. -/
theorem faultAllowed_bus {s : State} {i : Instr} {c : FaultCode} {info : Half} (hp : i.port = .bus)
    (h : faultAllowed s i c info) :
    busTakes s.busState i = false ∧ c = .busProtocol ∧ info = busFaultInfo s.busState i.opcode := by
  cases i with
  | busAck | busNack | busData b | busStop => exact h
  | _ => cases hp

/-- A bus condition follows the table or faults, in a cell marked *fault*. -/
theorem exec_bus_cases {s : State} {i : Instr} (hr : s.ready = true) (hp : i.port = .bus) :
    (∃ t, exec i s = .next t ∧ busNext s.busState i = some t.busState ∧ t.ready = true) ∨
    (busNext s.busState i = none ∧
      exec i s = .next (s.halt .busProtocol (busFaultInfo s.busState i.opcode))) := by
  obtain ⟨t, ht⟩ := exec_bus_next hr hp
  obtain ⟨-, hl | ⟨c, info, hf, rfl⟩⟩ := exec_cases ht
  · exact .inl ⟨t, ht, hl.follows_busNext hp hr⟩
  · obtain ⟨hn, rfl, rfl⟩ := faultAllowed_bus hp hf
    exact .inr ⟨(busNext_eq_none_iff _ _).2 hn, ht⟩

/-- Every cell of R101 marked *fault*. -/
theorem exec_of_not_busTakes {s : State} {i : Instr} (hr : s.ready = true) (hp : i.port = .bus)
    (h : busTakes s.busState i = false) :
    exec i s = .next (s.halt .busProtocol (busFaultInfo s.busState i.opcode)) := by
  obtain ⟨t, -, hn, -⟩ | ⟨-, he⟩ := exec_bus_cases hr hp
  · rw [(busNext_eq_none_iff _ _).2 h] at hn
    cases hn
  · exact he

/-! ### The five operations -/

/-- Settles O18: the two cells of `BUS_START`. -/
theorem busStartBeginsATransaction : Obligations.BusStartBeginsATransaction := fun addr cmd evt dest _ hr =>
  ⟨rfl, rfl, fun h => exec_busStart_of_idle hr h addr cmd evt dest,
    fun h => exec_busStart_of_ne_idle hr h addr cmd evt dest⟩

/-- Settles O19: three cells that go on, and the cells marked *fault*. -/
theorem busAckAdvancesTheSelect : Obligations.BusAckAdvancesTheSelect := by
  intro s hr
  refine ⟨rfl, rfl, exec_busAck_of_selectDevice hr, exec_busAck_of_sendCommand hr, exec_busAck_of_confirmSelect hr,
    fun h => exec_of_not_busTakes hr rfl ?_⟩
  obtain h | h | h | h := h <;> rw [h] <;> rfl

/-- Settles O20: the two retry cells, and the cells marked *fault*. -/
theorem busNackRetriesTheSelect : Obligations.BusNackRetriesTheSelect := by
  intro s hr
  refine ⟨rfl, rfl, exec_busNack_of_selectDevice hr, exec_busNack_of_confirmSelect hr,
    fun h => exec_of_not_busTakes hr rfl ?_⟩
  obtain h | h | h | h | h := h <;> rw [h] <;> rfl

/-- Settles O21: the two receive cells, and the cells marked *fault*. -/
theorem busDataStoresAndDelivers : Obligations.BusDataStoresAndDelivers := by
  intro b s hr
  refine ⟨rfl, rfl, fun h => exec_busData_of_receiveHigh hr h b, fun h => exec_busData_of_receiveLow hr h b,
    fun h => exec_of_not_busTakes hr rfl ?_⟩
  obtain h | h | h | h | h := h <;> rw [h] <;> rfl

/-- Settles O22: the one cell that goes on, and the cells marked *fault*. -/
theorem busStopCompletesTheTransaction : Obligations.BusStopCompletesTheTransaction := by
  intro s hr
  refine ⟨rfl, rfl, exec_busStop_of_done hr, fun h => exec_of_not_busTakes hr rfl ?_⟩
  obtain h | h | h | h | h | h := h <;> rw [h] <;> rfl

/-! ### Retries -/

/-- An operation that only ever emits one output, whatever the trace, may be repeated. -/
theorem runAll_replicate_of_emits {i : Instr} {o : Output} {s : State}
    (h : ∀ tr, exec i { s with trace := tr } = .next { s with trace := tr ++ [o] }) (n : Nat) (tr : List Output) :
    runAll (List.replicate n i) { s with trace := tr } = .next { s with trace := tr ++ List.replicate n o } := by
  induction n generalizing tr with
  | zero => simp [runAll]
  | succ n ih => simp [List.replicate_succ, runAll, h, ih]

/-- Settles O24, by induction on the number of retries. -/
theorem busRetriesAreUnbounded : Obligations.BusRetriesAreUnbounded := fun n s hr =>
  ⟨fun h => runAll_replicate_of_emits
      (fun tr => exec_busNack_of_selectDevice (s := { s with trace := tr }) hr h) n s.trace,
    fun h => runAll_replicate_of_emits
      (fun tr => exec_busNack_of_confirmSelect (s := { s with trace := tr }) hr h) n s.trace⟩

/-! ### Sequences of conditions along the table -/

/-- The state a sequence of conditions leads to along R101, if it meets no cell marked *fault*. -/
def busRun : BusState → List Instr → Option BusState
  | st, [] => some st
  | st, c :: cs => (busNext st c).bind fun st' => busRun st' cs

/-- The states on the way, one after each condition that is taken. -/
def busPath : BusState → List Instr → List BusState
  | _, [] => []
  | st, c :: cs =>
    match busNext st c with
    | some st' => st' :: busPath st' cs
    | none => []

@[simp] theorem busRun_nil (st : BusState) : busRun st [] = some st := rfl

theorem busRun_cons_of_busNext {st st' : BusState} {c : Instr} (h : busNext st c = some st') (cs : List Instr) :
    busRun st (c :: cs) = busRun st' cs := by
  rw [busRun, h, Option.bind_some]

theorem busRun_cons_of_fault {st : BusState} {c : Instr} (h : busNext st c = none) (cs : List Instr) :
    busRun st (c :: cs) = none := by
  rw [busRun, h, Option.bind_none]

theorem busRun_cons_eq_some {st u : BusState} {c : Instr} {cs : List Instr} :
    busRun st (c :: cs) = some u ↔ ∃ st', busNext st c = some st' ∧ busRun st' cs = some u := by
  rw [busRun, Option.bind_eq_some_iff]

theorem busRun_append (st : BusState) (cs ds : List Instr) :
    busRun st (cs ++ ds) = (busRun st cs).bind fun st' => busRun st' ds := by
  induction cs generalizing st with
  | nil => rfl
  | cons c cs ih => cases h : busNext st c <;> simp [busRun, h, ih]

theorem busPath_cons_of_busNext {st st' : BusState} {c : Instr} (h : busNext st c = some st') (cs : List Instr) :
    busPath st (c :: cs) = st' :: busPath st' cs := by
  rw [busPath, h]

theorem runAll_cons_of_next {c : Instr} {s t : State} (h : exec c s = .next t) (cs : List Instr) :
    runAll (c :: cs) s = runAll cs t := by
  rw [runAll, h]

/-- A run that ends in a next state without a fault began without one. -/
theorem not_halted_of_runAll {cs : List Instr} {s t : State} (h : runAll cs s = .next t) (ht : t.faultCode = 0) :
    s.halted = false := by
  cases cs with
  | nil =>
    cases h
    simp [State.halted, ht]
  | cons c cs =>
    rw [runAll] at h
    split at h
    · rename_i he
      exact ((State.ready_iff s).1 (exec_ready he)).1
    · cases h
    · cases h

/-- The runs without a fault are the sequences the table takes. -/
theorem runAll_bus_iff {cs : List Instr} {s : State} (hr : s.ready = true) (hp : ∀ c ∈ cs, c.port = .bus)
    (u : BusState) :
    (∃ t, runAll cs s = .next t ∧ t.faultCode = 0 ∧ t.busState = u) ↔ busRun s.busState cs = some u := by
  induction cs generalizing s with
  | nil =>
    have hf : s.faultCode = 0 := by simpa [State.halted] using (s.ready_iff.1 hr).1
    simp [runAll, hf]
  | cons c cs ih =>
    obtain ⟨hc, hcs⟩ := List.forall_mem_cons.1 hp
    obtain ⟨t, he, hn, ht⟩ | ⟨hn, he⟩ := exec_bus_cases hr hc
    · rw [runAll_cons_of_next he, busRun_cons_of_busNext hn, ih ht hcs]
    · rw [runAll_cons_of_next he, busRun_cons_of_fault hn]
      refine ⟨fun ⟨t, h, hf, _⟩ => ?_, nofun⟩
      simpa using not_halted_of_runAll h hf

/-- A sequence the table does not take has a beginning that faults with `BUS_PROTOCOL`. -/
theorem exists_busProtocol_of_busRun_eq_none {cs : List Instr} {s : State} (hr : s.ready = true) (hp : ∀ c ∈ cs, c.port = .bus)
    (h : busRun s.busState cs = none) :
    ∃ ds t, ds <+: cs ∧ runAll ds s = .next t ∧ t.faultCode = FaultCode.busProtocol.number := by
  induction cs generalizing s with
  | nil => cases h
  | cons c cs ih =>
    obtain ⟨hc, hcs⟩ := List.forall_mem_cons.1 hp
    obtain ⟨t, he, hn, ht⟩ | ⟨-, he⟩ := exec_bus_cases hr hc
    · rw [busRun_cons_of_busNext hn] at h
      obtain ⟨ds, u, hds, hrun, hu⟩ := ih ht hcs h
      exact ⟨c :: ds, u, List.cons_prefix_cons.2 ⟨rfl, hds⟩, (runAll_cons_of_next he ds).trans hrun, hu⟩
    · exact ⟨[c], _, List.cons_prefix_cons.2 ⟨rfl, cs.nil_prefix⟩, runAll_cons_of_next he [], rfl⟩

/-- The run visits the states of the table. -/
theorem busStatesOf_eq_busPath {cs : List Instr} {s : State} {u : BusState} (hr : s.ready = true)
    (hp : ∀ c ∈ cs, c.port = .bus) (h : busRun s.busState cs = some u) :
    busStatesOf cs s = busPath s.busState cs := by
  induction cs generalizing s with
  | nil => rfl
  | cons c cs ih =>
    obtain ⟨hc, hcs⟩ := List.forall_mem_cons.1 hp
    obtain ⟨t, he, hn, ht⟩ | ⟨hn, -⟩ := exec_bus_cases hr hc
    · rw [busRun_cons_of_busNext hn] at h
      rw [busStatesOf, he, busPath_cons_of_busNext hn]
      exact congrArg _ (ih ht hcs h)
    · rw [busRun_cons_of_fault hn] at h
      cases h

/-! ### The sequences that lead back to `IDLE` -/

section Rows

variable {c : Instr} {u : BusState}

theorem busNext_idle_eq_some : ¬ busNext .idle c = some u := by
  cases c <;> simp [busNext]

theorem busNext_selectDevice_eq_some :
    busNext .selectDevice c = some u ↔ (c = .busAck ∧ u = .sendCommand) ∨ (c = .busNack ∧ u = .selectDevice) := by
  cases c <;> simp [busNext, eq_comm]

theorem busNext_sendCommand_eq_some : busNext .sendCommand c = some u ↔ c = .busAck ∧ u = .confirmSelect := by
  cases c <;> simp [busNext, eq_comm]

theorem busNext_confirmSelect_eq_some :
    busNext .confirmSelect c = some u ↔ (c = .busAck ∧ u = .receiveHigh) ∨ (c = .busNack ∧ u = .confirmSelect) := by
  cases c <;> simp [busNext, eq_comm]

theorem busNext_receiveHigh_eq_some : busNext .receiveHigh c = some u ↔ (∃ b, c = .busData b) ∧ u = .receiveLow := by
  cases c <;> simp [busNext, eq_comm]

theorem busNext_receiveLow_eq_some : busNext .receiveLow c = some u ↔ (∃ b, c = .busData b) ∧ u = .done := by
  cases c <;> simp [busNext, eq_comm]

theorem busNext_done_eq_some : busNext .done c = some u ↔ c = .busStop ∧ u = .idle := by
  cases c <;> simp [busNext, eq_comm]

end Rows

theorem busRun_idle_iff {cs : List Instr} : busRun .idle cs = some .idle ↔ cs = [] := by
  cases cs with
  | nil => simp
  | cons c cs => simp [busRun_cons_eq_some, busNext_idle_eq_some]

theorem busRun_done_iff {cs : List Instr} : busRun .done cs = some .idle ↔ cs = [.busStop] := by
  cases cs with
  | nil => simp
  | cons c cs => simp [busRun_cons_eq_some, busNext_done_eq_some, busRun_idle_iff, and_assoc]

theorem busRun_receiveLow_iff {cs : List Instr} :
    busRun .receiveLow cs = some .idle ↔ ∃ lo, cs = [.busData lo, .busStop] := by
  cases cs with
  | nil => simp
  | cons c cs => simp [busRun_cons_eq_some, busNext_receiveLow_eq_some, busRun_done_iff, and_assoc]

theorem busRun_receiveHigh_iff {cs : List Instr} :
    busRun .receiveHigh cs = some .idle ↔ ∃ hi lo, cs = [.busData hi, .busData lo, .busStop] := by
  cases cs with
  | nil => simp
  | cons c cs => simp [busRun_cons_eq_some, busNext_receiveHigh_eq_some, busRun_receiveLow_iff, and_assoc]

/-- A state that only retries on no-acknowledge and goes on to `st'` on acknowledge comes back to `IDLE` by any number of
retries, an acknowledge, and a way back from `st'`. -/
theorem busRun_retry_iff {st st' : BusState} (hst : st ≠ .idle)
    (h : ∀ {c u}, busNext st c = some u ↔ (c = .busAck ∧ u = st') ∨ (c = .busNack ∧ u = st)) {cs : List Instr} :
    busRun st cs = some .idle ↔
      ∃ n ds, cs = List.replicate n Instr.busNack ++ Instr.busAck :: ds ∧ busRun st' ds = some .idle := by
  constructor
  · intro hrun
    induction cs with
    | nil => exact absurd (Option.some.inj hrun) hst
    | cons c cs ih =>
      obtain ⟨u, hn, htail⟩ := busRun_cons_eq_some.1 hrun
      obtain ⟨rfl, rfl⟩ | ⟨rfl, rfl⟩ := h.1 hn
      · exact ⟨0, cs, rfl, htail⟩
      · obtain ⟨n, ds, rfl, hds⟩ := ih htail
        exact ⟨n + 1, ds, rfl, hds⟩
  · rintro ⟨n, ds, rfl, hds⟩
    induction n with
    | zero => exact (busRun_cons_of_busNext (h.2 (.inl ⟨rfl, rfl⟩)) ds).trans hds
    | succ n ih => exact (busRun_cons_of_busNext (h.2 (.inr ⟨rfl, rfl⟩)) _).trans ih

theorem busRun_confirmSelect_iff {cs : List Instr} : busRun .confirmSelect cs = some .idle ↔
    ∃ m hi lo, cs = List.replicate m Instr.busNack ++ [Instr.busAck, .busData hi, .busData lo, .busStop] := by
  rw [busRun_retry_iff (by decide) busNext_confirmSelect_eq_some]
  simp [busRun_receiveHigh_iff]

theorem busRun_sendCommand_iff {cs : List Instr} : busRun .sendCommand cs = some .idle ↔
    ∃ m hi lo, cs = Instr.busAck ::
      (List.replicate m Instr.busNack ++ [Instr.busAck, .busData hi, .busData lo, .busStop]) := by
  cases cs with
  | nil => simp
  | cons c cs => simp [busRun_cons_eq_some, busNext_sendCommand_eq_some, busRun_confirmSelect_iff, and_assoc]

/-- R112: the sequences that complete a transaction just begun. -/
theorem busRun_selectDevice_iff {cs : List Instr} :
    busRun .selectDevice cs = some .idle ↔ ∃ n m hi lo, cs = busTransaction n m hi lo := by
  rw [busRun_retry_iff (by decide) busNext_selectDevice_eq_some]
  simp [busRun_sendCommand_iff, busTransaction]

theorem busTransaction_port {n m : Nat} {hi lo : Byte} : ∀ c ∈ busTransaction n m hi lo, c.port = .bus := by
  simp [busTransaction, or_imp, forall_and, List.mem_replicate, Instr.port]

theorem busPath_replicate_busNack {st : BusState} (h : busNext st .busNack = some st) (n : Nat) (cs : List Instr) :
    busPath st (List.replicate n Instr.busNack ++ cs) = List.replicate n st ++ busPath st cs := by
  induction n with
  | zero => rfl
  | succ n ih => exact (busPath_cons_of_busNext h _).trans (congrArg _ ih)

/-- R112: the states a whole transaction visits. -/
theorem busPath_busTransaction (n m : Nat) (hi lo : Byte) : busPath .selectDevice (busTransaction n m hi lo) =
    List.replicate n BusState.selectDevice ++ [BusState.sendCommand] ++
      List.replicate (m + 1) BusState.confirmSelect ++ [BusState.receiveHigh, .receiveLow, .done, .idle] := by
  have hselect (cs : List Instr) := busPath_replicate_busNack (st := .selectDevice) rfl n cs
  have hconfirm (cs : List Instr) := busPath_replicate_busNack (st := .confirmSelect) rfl m cs
  simp [busTransaction, hselect, hconfirm, busPath, busNext, List.replicate_succ]

/-- From every state the rules name, some bus conditions lead back to `IDLE`. -/
theorem exists_busRun_idle {st : BusState} (h : st ≠ .reserved) :
    ∃ ds : List Instr, busRun st ds = some .idle := by
  cases st with
  | idle => exact ⟨_, busRun_idle_iff.2 rfl⟩
  | selectDevice => exact ⟨_, busRun_selectDevice_iff.2 ⟨0, 0, 0, 0, rfl⟩⟩
  | sendCommand => exact ⟨_, busRun_sendCommand_iff.2 ⟨0, 0, 0, rfl⟩⟩
  | confirmSelect => exact ⟨_, busRun_confirmSelect_iff.2 ⟨0, 0, 0, rfl⟩⟩
  | receiveHigh => exact ⟨_, busRun_receiveHigh_iff.2 ⟨0, 0, rfl⟩⟩
  | receiveLow => exact ⟨_, busRun_receiveLow_iff.2 ⟨0, rfl⟩⟩
  | done => exact ⟨_, busRun_done_iff.2 rfl⟩
  | reserved => exact absurd rfl h

theorem busNext_ne_reserved {st : BusState} {c : Instr} : busNext st c ≠ some .reserved := by
  cases c <;> cases st <;> simp [busNext]

theorem busRun_ne_reserved {st : BusState} (h : st ≠ .reserved) (cs : List Instr) :
    busRun st cs ≠ some .reserved := by
  induction cs generalizing st with
  | nil => simpa using h
  | cons c cs ih =>
    intro hrun
    obtain ⟨u, hn, htail⟩ := busRun_cons_eq_some.1 hrun
    exact ih (fun hu => busNext_ne_reserved (hu ▸ hn)) htail

/-- Every sequence the table takes from `SELECT_DEVICE` can be completed to a transaction. -/
theorem exists_busTransaction_of_busRun {cs : List Instr} {u : BusState} (h : busRun .selectDevice cs = some u) :
    ∃ n m hi lo, cs <+: busTransaction n m hi lo := by
  have hu : u ≠ .reserved := fun hu => busRun_ne_reserved (by decide) cs (hu ▸ h)
  obtain ⟨ds, hds⟩ := exists_busRun_idle hu
  have hrun : busRun .selectDevice (cs ++ ds) = some .idle := by rw [busRun_append, h, Option.bind_some, hds]
  obtain ⟨n, m, hi, lo, heq⟩ := busRun_selectDevice_iff.1 hrun
  exact ⟨n, m, hi, lo, ds, heq⟩

/-- Settles O25: the run follows the table, and the table's sequences are the transactions and their beginnings. -/
theorem busTransactionsAreExactlyTheNamedSequences : Obligations.BusTransactionsAreExactlyTheNamedSequences := by
  intro addr cmd evt dest s s1 hr hidle h1
  obtain ⟨hr1, hst⟩ : s1.ready = true ∧ s1.busState = .selectDevice := by
    rw [exec_busStart_of_idle hr hidle] at h1
    cases h1
    exact ⟨State.ready_of_bus_fields hr (by decide) _ _ _ _ _ _, rfl⟩
  refine ⟨fun cs hp => ?_, fun n m hi lo => ?_, fun cs hp hno => ?_⟩
  · rw [runAll_bus_iff hr1 hp, hst, busRun_selectDevice_iff]
  · have hrun := busRun_selectDevice_iff.2 ⟨n, m, hi, lo, rfl⟩
    rw [busStatesOf_eq_busPath hr1 busTransaction_port (hst ▸ hrun), hst, busPath_busTransaction]
    rfl
  · refine exists_busProtocol_of_busRun_eq_none hr1 hp ?_
    rw [hst, Option.eq_none_iff_forall_ne_some]
    intro u hu
    obtain ⟨n, m, hi, lo, hpre⟩ := exists_busTransaction_of_busRun hu
    exact hno n m hi lo hpre

end Sys2Proof.Machine

/-! PROOFS. The serial transmit sub-machine (41_serial_tx.md): one equation per case of the two transmit conditions, and
the statements. -/

namespace Sys2Proof.Machine

section Transmit

variable {s : State}

/-! ### The two halves of R142 -/

theorem State.sendByte_of_lt (h : s.txSent < s.txLen) :
    s.sendByte = { s with
      txSent := s.txSent + 1, trace := s.trace ++ [.txByte (s.txRead s.txSent.toNat)] } :=
  if_pos h

theorem State.sendByte_of_not_lt (h : ¬ s.txSent < s.txLen) : s.sendByte = s :=
  if_neg h

theorem State.finishSending_of_eq (h : s.txSent = s.txLen) :
    s.finishSending = { s with txBlIe := false, txCIe := true, txState := .completing } :=
  if_pos h

theorem State.finishSending_of_ne (h : s.txSent ≠ s.txLen) : s.finishSending = s :=
  if_neg h

/-! ### `TX_BYTE_READY` -/

theorem exec_txByteReady_of_enabled (hr : s.ready = true) (h : s.txBlIe = true) :
    exec .txByteReady s = .next s.sendByte.finishSending := by
  simp [exec, execTxByteReady, State.perform_of_ready hr, h]

/-- R258. -/
theorem exec_txByteReady_of_gated (hr : s.ready = true) (h : s.txBlIe = false) : exec .txByteReady s = .next s := by
  simp [exec, execTxByteReady, State.perform_of_ready hr, h]

theorem exec_txByteReady_of_more (hr : s.ready = true) (h : s.txBlIe = true)
    (hmore : s.txSent.toNat + 1 < s.txLen.toNat) :
    exec .txByteReady s = .next { s with
      txSent := s.txSent + 1, trace := s.trace ++ [.txByte (s.txRead s.txSent.toNat)] } := by
  have hlt : s.txSent < s.txLen := by bv_omega
  have hne : s.txSent + 1 ≠ s.txLen := by bv_omega
  rw [exec_txByteReady_of_enabled hr h, State.sendByte_of_lt hlt, State.finishSending_of_ne hne]

theorem exec_txByteReady_of_last (hr : s.ready = true) (h : s.txBlIe = true)
    (hlast : s.txSent.toNat + 1 = s.txLen.toNat) :
    exec .txByteReady s = .next { s with
      txSent := s.txSent + 1, trace := s.trace ++ [.txByte (s.txRead s.txSent.toNat)],
      txBlIe := false, txCIe := true, txState := .completing } := by
  have hlt : s.txSent < s.txLen := by bv_omega
  have heq : s.txSent + 1 = s.txLen := by bv_omega
  rw [exec_txByteReady_of_enabled hr h, State.sendByte_of_lt hlt, State.finishSending_of_eq heq]

theorem exec_txByteReady_of_none_left (hr : s.ready = true) (h : s.txBlIe = true) (hnone : s.txSent = s.txLen) :
    exec .txByteReady s = .next { s with txBlIe := false, txCIe := true, txState := .completing } := by
  have hlt : ¬ s.txSent < s.txLen := by bv_omega
  rw [exec_txByteReady_of_enabled hr h, State.sendByte_of_not_lt hlt, State.finishSending_of_eq hnone]

/-! ### `TX_COMPLETE` -/

/-- R258. -/
theorem exec_txComplete_of_gated (hr : s.ready = true) (h : s.txCIe = false) : exec .txComplete s = .next s := by
  simp [exec, execTxComplete, State.perform_of_ready hr, h]

theorem exec_txComplete_of_enabled (hr : s.ready = true) (h : s.txCIe = true) :
    exec .txComplete s = .next { s with
      txBusy := false, txCIe := false, txState := .idle,
      trace := s.trace ++ [.pmUnblock s.cfg.txPmLevel, .post s.cfg.txDoneEvent] } := by
  simp [exec, execTxComplete, State.perform_of_ready hr, h, State.emit]

end Transmit

/-- Settles O29: the gated case, a byte before the last, the last byte, and none left. -/
theorem txByteReadySendsTheNextByte : Obligations.TxByteReadySendsTheNextByte := fun _ hr =>
  ⟨rfl, rfl, exec_txByteReady_of_gated hr, exec_txByteReady_of_more hr, exec_txByteReady_of_last hr,
    exec_txByteReady_of_none_left hr⟩

/-- Settles O30: the gated case and the taken one. -/
theorem txCompleteEndsTheTransmission : Obligations.TxCompleteEndsTheTransmission := fun _ hr =>
  ⟨rfl, rfl, exec_txComplete_of_gated hr, exec_txComplete_of_enabled hr⟩

end Sys2Proof.Machine

/-! PROOFS. The serial receive sub-machine (42_serial_rx.md): one equation per case of the receive conditions and of the
line byte, what collecting a frame leaves ready and which frame it leaves, and the statements. -/

namespace Sys2Proof.Machine

/-- What R171's append leaves where it does not overflow. -/
def State.collectByte (s : State) (b : Byte) : State :=
  { s with rxBuf := s.rxBuf.set s.rxLen b, rxLen := s.rxLen + 1 }

@[simp] theorem State.collectByte_cfg (s : State) (b : Byte) : (s.collectByte b).cfg = s.cfg := rfl

/-- What R172 leaves in `COLLECTING`. -/
def State.restartFrame (s : State) : State := { s with rxBuf := s.rxBuf.set 0 s.cfg.sofMarker, rxLen := 1 }

section Receive

variable {s : State}

/-! ### The parts a ready state is read for -/

theorem State.cfg_valid_of_ready (hr : s.ready = true) : s.cfg.valid = true := by
  obtain ⟨hcfg, -⟩ := s.wellFormed_iff.1 (s.ready_iff.1 hr).2
  exact hcfg

theorem State.rxOk_of_ready (hr : s.ready = true) : s.rxOk = true := by
  obtain ⟨-, -, -, -, hrx⟩ := s.wellFormed_iff.1 (s.ready_iff.1 hr).2
  exact hrx

theorem State.two_le_rxBufLen (hr : s.ready = true) : 2 ≤ s.cfg.rxBufLen := by
  obtain ⟨-, -, h, -⟩ := (cfgValid_iff _).1 (State.cfg_valid_of_ready hr)
  exact h

/-- R36: between operations `rx_state` is `RX_IDLE` or `COLLECTING`. -/
theorem State.rxState_of_ready (hr : s.ready = true) : s.rxState = .idle ∨ s.rxState = .collecting :=
  (s.rxOk_iff.1 (State.rxOk_of_ready hr)).1

/-! ### The append (R171) -/

theorem State.rxAppend_of_full (h : s.rxLen = s.cfg.rxBufLen) (b op : Byte) :
    s.rxAppend b op = .raise .rxOverflow (faultInfoOf 0 op) :=
  if_pos h.ge

theorem State.rxAppend_of_lt (h : s.rxLen < s.cfg.rxBufLen) (b op : Byte) :
    s.rxAppend b op = .done (s.collectByte b) :=
  if_neg (Nat.not_le.2 h)

/-! ### `RX_START_FRAME` (R172) -/

theorem exec_rxStartFrame_of_idle (hr : s.ready = true) (h : s.rxState = .idle) :
    exec .rxStartFrame s = .next { s with
      rxBuf := s.rxBuf.set 0 s.cfg.sofMarker, rxLen := 1, rxValid := false, rxByteIe := true, rxEofIe := true,
      rxBlock := false, rxState := .collecting } := by
  rw [exec, execRxStartFrame, State.perform_of_ready hr]
  obtain ⟨-, he⟩ | ⟨hc, -⟩ := State.startFrame_cases (State.cfg_valid_of_ready hr) (State.rxOk_of_ready hr)
  · rw [he, Effect.commit_done]
  · exact absurd (h.symm.trans hc) (by decide)

theorem exec_rxStartFrame_of_collecting (hr : s.ready = true) (h : s.rxState = .collecting) :
    exec .rxStartFrame s = .next s.restartFrame := by
  rw [exec, execRxStartFrame, State.perform_of_ready hr]
  obtain ⟨hi, -⟩ | ⟨-, he⟩ := State.startFrame_cases (State.cfg_valid_of_ready hr) (State.rxOk_of_ready hr)
  · exact absurd (h.symm.trans hi) (by decide)
  · rw [he, Effect.commit_done]
    rfl

/-! ### `RX_BYTE` (R173) -/

/-- R258. -/
theorem exec_rxByte_of_gated (hr : s.ready = true) (h : s.rxBlock = true ∨ s.rxByteIe = false) (b : Byte) :
    exec (.rxByte b) s = .next s := by
  have hg : (s.rxBlock || !s.rxByteIe) = true := by simpa using h
  rw [exec, execRxByte, State.perform_of_ready hr, State.receiveByte, if_pos hg, Effect.commit_done]

theorem exec_rxByte_of_enabled (hr : s.ready = true) (hb : s.rxBlock = false) (hi : s.rxByteIe = true) (b : Byte) :
    exec (.rxByte b) s = (s.rxAppend b 0x31).commit s := by
  simp [exec, execRxByte, State.perform_of_ready hr, State.receiveByte, hb, hi]

theorem exec_rxByte_of_full (hr : s.ready = true) (hb : s.rxBlock = false) (hi : s.rxByteIe = true)
    (hl : s.rxLen = s.cfg.rxBufLen) (b : Byte) :
    exec (.rxByte b) s = .next { s with faultCode := 5, faultInfo := 0x31 } := by
  rw [exec_rxByte_of_enabled hr hb hi, State.rxAppend_of_full hl]
  rfl

theorem exec_rxByte_of_lt (hr : s.ready = true) (hb : s.rxBlock = false) (hi : s.rxByteIe = true)
    (hl : s.rxLen < s.cfg.rxBufLen) (b : Byte) :
    exec (.rxByte b) s = .next (s.collectByte b) := by
  rw [exec_rxByte_of_enabled hr hb hi, State.rxAppend_of_lt hl, Effect.commit_done]

/-! ### `RX_END_FRAME` (R174) -/

theorem State.endFrame_of_full (h : s.rxEofIe = true) (hl : s.rxLen = s.cfg.rxBufLen) :
    s.endFrame = .raise .rxOverflow (faultInfoOf 0 0x32) := by
  obtain ⟨-, he⟩ | ⟨hlt, -⟩ := State.endFrame_cases h
  · exact he
  · exact absurd hl hlt.ne

theorem State.endFrame_of_lt (h : s.rxEofIe = true) (hl : s.rxLen < s.cfg.rxBufLen) :
    s.endFrame = .done { s with
      rxBuf := s.rxBuf.set s.rxLen s.cfg.term, rxBlock := true, rxByteIe := false, rxEofIe := false, rxValid := true,
      rxState := .idle, trace := s.trace ++ [.post s.cfg.rxDoneEvent] } := by
  obtain ⟨hle, -⟩ | ⟨-, he⟩ := State.endFrame_cases h
  · exact absurd hl hle.not_gt
  · exact he

/-- R258. -/
theorem exec_rxEndFrame_of_gated (hr : s.ready = true) (h : s.rxEofIe = false) : exec .rxEndFrame s = .next s := by
  simp [exec, execRxEndFrame, State.perform_of_ready hr, State.endFrame, h]

theorem exec_rxEndFrame_of_full (hr : s.ready = true) (h : s.rxEofIe = true) (hl : s.rxLen = s.cfg.rxBufLen) :
    exec .rxEndFrame s = .next { s with faultCode := 5, faultInfo := 0x32 } := by
  rw [exec, execRxEndFrame, State.perform_of_ready hr, State.endFrame_of_full h hl]
  rfl

theorem exec_rxEndFrame_of_lt (hr : s.ready = true) (h : s.rxEofIe = true) (hl : s.rxLen < s.cfg.rxBufLen) :
    exec .rxEndFrame s = .next { s with
      rxBuf := s.rxBuf.set s.rxLen s.cfg.term, rxBlock := true, rxByteIe := false, rxEofIe := false, rxValid := true,
      rxState := .idle, trace := s.trace ++ [.post s.cfg.rxDoneEvent] } := by
  rw [exec, execRxEndFrame, State.perform_of_ready hr, State.endFrame_of_lt h hl, Effect.commit_done]

/-! ### `RX_LINE` (R175) -/

theorem exec_rxLine_sofMarker (s : State) : exec (.rxLine s.cfg.sofMarker) s = exec .rxStartFrame s :=
  congrArg s.perform (if_pos rfl)

theorem exec_rxLine_of_idle {b : Byte} (hr : s.ready = true) (hb : b ≠ s.cfg.sofMarker) (h : s.rxState = .idle) :
    exec (.rxLine b) s = .next s := by
  have hx := State.rxOk_of_ready hr
  rw [exec, execRxLine, State.perform_of_ready hr, if_neg hb, State.receiveByte_of_idle hx h, Effect.andThen_done,
    State.endFrame_of_idle hx h, ite_self, Effect.commit_done]

/-- Past the start detector and in `COLLECTING`, a line byte is appended and then shown to the end detector. -/
theorem exec_rxLine_of_collecting {b : Byte} (hr : s.ready = true) (hb : b ≠ s.cfg.sofMarker)
    (h : s.rxState = .collecting) :
    exec (.rxLine b) s =
      ((s.rxAppend b 0x31).andThen fun t => if b = t.cfg.eofMarker then t.endFrame else .done t).commit s := by
  rw [exec, execRxLine, State.perform_of_ready hr, if_neg hb,
    State.receiveByte_of_collecting (State.rxOk_of_ready hr) h]

theorem exec_rxLine_of_full {b : Byte} (hr : s.ready = true) (hb : b ≠ s.cfg.sofMarker) (h : s.rxState = .collecting)
    (hl : s.rxLen = s.cfg.rxBufLen) :
    exec (.rxLine b) s = .next { s with faultCode := 5, faultInfo := 0x31 } := by
  rw [exec_rxLine_of_collecting hr hb h, State.rxAppend_of_full hl]
  rfl

theorem exec_rxLine_of_lt {b : Byte} (hr : s.ready = true) (hb : b ≠ s.cfg.sofMarker) (he : b ≠ s.cfg.eofMarker)
    (h : s.rxState = .collecting) (hl : s.rxLen < s.cfg.rxBufLen) :
    exec (.rxLine b) s = .next (s.collectByte b) := by
  rw [exec_rxLine_of_collecting hr hb h, State.rxAppend_of_lt hl, Effect.andThen_done,
    State.collectByte_cfg, if_neg he, Effect.commit_done]

theorem State.eofMarker_ne_sofMarker (hr : s.ready = true) : s.cfg.eofMarker ≠ s.cfg.sofMarker := by
  obtain ⟨-, -, -, -, -, -, -, h, -⟩ := (cfgValid_iff _).1 (State.cfg_valid_of_ready hr)
  exact h.symm

/-- An end marker that fits goes on to `RX_END_FRAME`'s rule on the state with the marker appended. -/
theorem exec_rxLine_eofMarker (hr : s.ready = true) (h : s.rxState = .collecting) (hl : s.rxLen < s.cfg.rxBufLen) :
    exec (.rxLine s.cfg.eofMarker) s =
      (s.collectByte s.cfg.eofMarker).endFrame.commit s := by
  rw [exec_rxLine_of_collecting hr (State.eofMarker_ne_sofMarker hr) h, State.rxAppend_of_lt hl, Effect.andThen_done,
    State.collectByte_cfg, if_pos rfl]

theorem exec_rxLine_eofMarker_of_full (hr : s.ready = true) (h : s.rxState = .collecting)
    (hl : s.rxLen + 1 = s.cfg.rxBufLen) :
    exec (.rxLine s.cfg.eofMarker) s = .next { s with faultCode := 5, faultInfo := 0x32 } := by
  obtain ⟨-, -, hie⟩ := State.rx_of_collecting (State.rxOk_of_ready hr) h
  rw [exec_rxLine_eofMarker hr h (by omega), State.endFrame_of_full (s := s.collectByte _) hie hl]
  rfl

theorem exec_rxLine_eofMarker_of_lt (hr : s.ready = true) (h : s.rxState = .collecting)
    (hl : s.rxLen + 1 < s.cfg.rxBufLen) :
    exec (.rxLine s.cfg.eofMarker) s = .next { s with
      rxBuf := (s.rxBuf.set s.rxLen s.cfg.eofMarker).set (s.rxLen + 1) s.cfg.term, rxLen := s.rxLen + 1,
      rxBlock := true, rxByteIe := false, rxEofIe := false, rxValid := true, rxState := .idle,
      trace := s.trace ++ [.post s.cfg.rxDoneEvent] } := by
  obtain ⟨-, -, hie⟩ := State.rx_of_collecting (State.rxOk_of_ready hr) h
  rw [exec_rxLine_eofMarker hr h (by omega), State.endFrame_of_lt (s := s.collectByte _) hie hl]
  rfl

/-! ### Collecting a frame -/

/-- A byte may be stored in `COLLECTING` at any index of the buffer that leaves the start marker at index 0. -/
theorem State.ready_of_collecting_set (hr : s.ready = true) (h : s.rxState = .collecting) {i n : Nat} {b : Byte}
    (hi : i < s.cfg.rxBufLen) (hpos : 1 ≤ n) (hn : n ≤ s.cfg.rxBufLen)
    (h0 : (s.rxBuf.set i b).get? 0 = some s.cfg.sofMarker) :
    ({ s with rxBuf := s.rxBuf.set i b, rxLen := n } : State).ready = true := by
  obtain ⟨hh, hw⟩ := s.ready_iff.1 hr
  obtain ⟨hcfg, hshape, hbus, htx, hrx⟩ := s.wellFormed_iff.1 hw
  obtain ⟨-, hrd, hwr, htw, htf, hrw, hrf, hring⟩ := s.shapeOk_iff.1 hshape
  obtain ⟨hst, hblock, hbyte, heof, hvalid, -, -⟩ := s.rxOk_iff.1 hrx
  have hinvalid : s.rxValid ≠ true := fun hv => absurd (h.symm.trans (hvalid hv)) (by decide)
  exact (State.ready_iff _).2 ⟨hh, (State.wellFormed_iff _).2 ⟨hcfg,
    (State.shapeOk_iff _).2 ⟨hn, hrd, hwr, htw, htf, Memory.set_wf _ _ _ hrw, Memory.set_fits _ _ hi hrf, hring⟩,
    hbus, htx,
    (State.rxOk_iff _).2 ⟨hst, hblock, hbyte, heof, hvalid, fun _ => ⟨hpos, h0⟩,
      fun hv => absurd hv hinvalid⟩⟩⟩

/-- The state a restarted frame leaves is ready (R172). -/
theorem State.restartFrame_ready (hr : s.ready = true) (h : s.rxState = .collecting) :
    s.restartFrame.ready = true := by
  have hlen := State.two_le_rxBufLen hr
  exact State.ready_of_collecting_set hr h (by omega) le_rfl (by omega) (Memory.get?_set_self _ _ _)

/-- The state an appended byte leaves is ready (R173): the marker stays, since the frame is not empty. -/
theorem State.collectByte_ready (hr : s.ready = true) (h : s.rxState = .collecting) (hl : s.rxLen < s.cfg.rxBufLen)
    (b : Byte) : (s.collectByte b).ready = true := by
  obtain ⟨-, -, -, -, -, hframe, -⟩ := s.rxOk_iff.1 (State.rxOk_of_ready hr)
  obtain ⟨hpos, h0⟩ := hframe h
  exact State.ready_of_collecting_set hr h hl (by omega) hl ((Memory.get?_set_of_ne _ _ (by omega)).trans h0)

theorem State.restartFrame_rxFrame (s : State) : s.restartFrame.rxFrame = [s.cfg.sofMarker] :=
  congrArg ([·]) (Memory.read_of_get? (Memory.get?_set_self _ _ _) _ _)

theorem State.collectByte_rxFrame (s : State) (b : Byte) : (s.collectByte b).rxFrame = s.rxFrame ++ [b] := by
  have hlast : (s.collectByte b).rxRead s.rxLen = b := Memory.read_of_get? (Memory.get?_set_self _ _ _) _ _
  have hbefore : ∀ i ∈ List.range s.rxLen, (s.collectByte b).rxRead i = s.rxRead i := fun i hi => by
    have hne : i ≠ s.rxLen := (List.mem_range.1 hi).ne
    exact congrArg (Option.getD · _) (Memory.get?_set_of_ne _ _ hne)
  calc (s.collectByte b).rxFrame
      = (List.range (s.rxLen + 1)).map (s.collectByte b).rxRead := rfl
    _ = (List.range s.rxLen).map (s.collectByte b).rxRead ++ [(s.collectByte b).rxRead s.rxLen] := by
      rw [List.range_succ, List.map_append, List.map_singleton]
    _ = s.rxFrame ++ [b] := by rw [List.map_congr_left hbefore, hlast, State.rxFrame]

/-- Bytes that fit are collected behind the frame so far, without an output. -/
theorem runAll_rxByte_collects (cs : List Byte) (hr : s.ready = true) (h : s.rxState = .collecting)
    (hl : s.rxLen + cs.length ≤ s.cfg.rxBufLen) :
    ∃ t, runAll (cs.map .rxByte) s = .next t ∧ t.ready = true ∧ t.rxState = .collecting ∧
      t.rxLen = s.rxLen + cs.length ∧ t.rxFrame = s.rxFrame ++ cs ∧ t.trace = s.trace := by
  induction cs generalizing s with
  | nil => exact ⟨s, rfl, hr, h, rfl, (List.append_nil _).symm, rfl⟩
  | cons c cs ih =>
    have hsplit : s.rxLen + (c :: cs).length = (s.collectByte c).rxLen + cs.length :=
      (Nat.add_right_comm s.rxLen 1 cs.length).symm
    have hlt : s.rxLen < s.cfg.rxBufLen := by rw [List.length_cons] at hl; omega
    obtain ⟨hb, hie, -⟩ := State.rx_of_collecting (State.rxOk_of_ready hr) h
    obtain ⟨t, hrun, htr, hts, htl, htf, htt⟩ := ih (State.collectByte_ready hr h hlt c) h (hsplit ▸ hl)
    refine ⟨t, ?_, htr, hts, htl.trans hsplit.symm, ?_, htt⟩
    · rw [List.map_cons, runAll_cons_of_next (exec_rxByte_of_lt hr hb hie hlt c), hrun]
    · rw [htf, State.collectByte_rxFrame, List.append_assoc, List.singleton_append]

end Receive

/-- Settles O33: the marker begins a frame in `RX_IDLE` and restarts it in `COLLECTING`. -/
theorem rxStartFrameBeginsOrRestarts : Obligations.RxStartFrameBeginsOrRestarts := by
  intro s hr
  refine ⟨rfl, rfl, ?_⟩
  obtain h | h := State.rxState_of_ready hr
  · exact ⟨_, exec_rxStartFrame_of_idle hr h, Memory.get?_set_self _ _ _, fun _ => Memory.get?_set_of_ne _ _,
      fun _ => rfl, fun hc => absurd (h.symm.trans hc) (by decide)⟩
  · exact ⟨_, exec_rxStartFrame_of_collecting hr h, Memory.get?_set_self _ _ _, fun _ => Memory.get?_set_of_ne _ _,
      fun hi => absurd (h.symm.trans hi) (by decide), fun _ => rfl⟩

/-- Settles O34: the gated byte, the full buffer, and the byte appended. -/
theorem rxByteAppendsOrFaults : Obligations.RxByteAppendsOrFaults := fun b _ hr =>
  ⟨rfl, rfl, fun h => exec_rxByte_of_gated hr h b, fun hb hi hl => exec_rxByte_of_full hr hb hi hl b,
    fun hb hi hl => ⟨_, exec_rxByte_of_lt hr hb hi hl b, Memory.get?_set_self _ _ _,
      fun _ => Memory.get?_set_of_ne _ _, rfl⟩⟩

/-- Settles O35: the gated condition, no slot for the terminator, and the frame completed. -/
theorem rxEndFrameCompletesTheFrame : Obligations.RxEndFrameCompletesTheFrame := fun _ hr =>
  ⟨rfl, rfl, exec_rxEndFrame_of_gated hr, exec_rxEndFrame_of_full hr,
    fun h hl => ⟨_, exec_rxEndFrame_of_lt hr h hl, Memory.get?_set_self _ _ _, fun _ => Memory.get?_set_of_ne _ _,
      rfl⟩⟩

/-- Settles O36: the start marker, a byte while idle, a full buffer, another byte, and the end marker without and with
the terminator's slot behind it. -/
theorem rxLinePerformsTheDetectors : Obligations.RxLinePerformsTheDetectors := by
  intro b s hr
  refine ⟨rfl, rfl, ?_, exec_rxLine_of_idle hr, exec_rxLine_of_full hr, fun hb he h hl => ?_, ?_, ?_⟩
  · rintro rfl
    obtain ⟨-, -, t, ht, -⟩ := rxStartFrameBeginsOrRestarts s hr
    exact ⟨t, (exec_rxLine_sofMarker s).trans ht, ht⟩
  · exact ⟨_, exec_rxLine_of_lt hr hb he h hl, Memory.get?_set_self _ _ _, fun _ => Memory.get?_set_of_ne _ _, rfl⟩
  · rintro rfl
    exact exec_rxLine_eofMarker_of_full hr
  · rintro rfl h hl
    refine ⟨_, exec_rxLine_eofMarker_of_lt hr h hl, ?_, Memory.get?_set_self _ _ _, fun k hk hk1 => ?_, rfl⟩
    · exact (Memory.get?_set_of_ne _ _ (by omega)).trans (Memory.get?_set_self _ _ _)
    · exact (Memory.get?_set_of_ne _ _ hk1).trans (Memory.get?_set_of_ne _ _ hk)

/-- Settles O40: the marker leaves a frame of one byte, whatever was collected, and the bytes are collected
behind it. -/
theorem duplicateStartMarkerRestartsTheFrame : Obligations.DuplicateStartMarkerRestartsTheFrame := by
  intro cs s hr h hl
  obtain ⟨t, hrun, htr, hts, htl, htf, htt⟩ :=
    runAll_rxByte_collects cs (State.restartFrame_ready hr h) h ((Nat.add_comm 1 _).trans_le hl)
  refine ⟨t, ?_, htr, hts, htl.trans (Nat.add_comm 1 _), ?_, htt⟩
  · rw [runAll_cons_of_next (exec_rxStartFrame_of_collecting hr h), hrun]
  · rw [htf, State.restartFrame_rxFrame, List.singleton_append]

end Sys2Proof.Machine

/-! PROOFS. The ring buffer FIFO (43_ring_buffer.md): the occupied bytes as a list, one equation per case of the four
operations, what they leave ready, the queue of records, and the statements. -/

namespace Sys2Proof.Machine

section Ring

variable {s t : State}

/-! ### The parts a ready state is read for -/

theorem State.ready_iff_parts (s : State) : s.ready = true ↔
    s.halted = false ∧ s.cfg.valid = true ∧ s.shapeOk = true ∧ s.busOk = true ∧ s.txOk = true ∧
      s.rxOk = true := by
  rw [State.ready_iff, State.wellFormed_iff]

theorem State.ringCap_mem_of_ready (hr : s.ready = true) : s.cfg.ringCap ∈ Config.ringCaps := by
  obtain ⟨h, -⟩ := (cfgValid_iff _).1 (State.cfg_valid_of_ready hr)
  exact h

theorem State.shapeOk_of_ready (hr : s.ready = true) : s.shapeOk = true := by
  obtain ⟨-, -, h, -⟩ := s.ready_iff_parts.1 hr
  exact h

theorem State.ringRd_lt_of_ready (hr : s.ready = true) : s.ringRd < s.cfg.ringCap := by
  obtain ⟨-, h, -⟩ := s.shapeOk_iff.1 (State.shapeOk_of_ready hr)
  exact h

theorem State.ringWr_lt_of_ready (hr : s.ready = true) : s.ringWr < s.cfg.ringCap := by
  obtain ⟨-, -, h, -⟩ := s.shapeOk_iff.1 (State.shapeOk_of_ready hr)
  exact h

/-! ### Occupancy (R210) -/

/-- Reduction of a sum of two indices of the ring. -/
theorem mod_of_lt_two_mul {a C : Nat} (h : a < 2 * C) : a % C = if a < C then a else a - C := by
  split
  · exact Nat.mod_eq_of_lt ‹_›
  · rw [Nat.mod_eq_sub_mod (by omega), Nat.mod_eq_of_lt (by omega)]

/-- The occupancy is the one distance below the capacity from the read index to the write index. -/
theorem State.occ_eq_iff (hc : s.cfg.ringCap ∈ Config.ringCaps) (hrd : s.ringRd < s.cfg.ringCap)
    (hwr : s.ringWr < s.cfg.ringCap) (n : Nat) :
    s.occ = n ↔ n < s.cfg.ringCap ∧ (s.ringRd + n) % s.cfg.ringCap = s.ringWr := by
  have hocc : s.occ = if s.ringRd ≤ s.ringWr then s.ringWr - s.ringRd else s.ringWr + s.cfg.ringCap - s.ringRd := by
    rw [State.occ_eq hc, mod_of_lt_two_mul (by omega)]
    split_ifs <;> omega
  constructor
  · rintro rfl
    refine ⟨State.occ_lt hc, ?_⟩
    rw [mod_of_lt_two_mul (by have := State.occ_lt hc; omega), hocc]
    split_ifs <;> omega
  · rintro ⟨hn, h⟩
    rw [mod_of_lt_two_mul (by omega)] at h
    rw [hocc]
    split_ifs at h ⊢ <;> omega

/-- The occupancy of a ready state, as `occ_eq_iff` gives it. -/
theorem State.occ_eq_iff_of_ready (hr : s.ready = true) (n : Nat) :
    s.occ = n ↔ n < s.cfg.ringCap ∧ (s.ringRd + n) % s.cfg.ringCap = s.ringWr :=
  State.occ_eq_iff (State.ringCap_mem_of_ready hr) (State.ringRd_lt_of_ready hr) (State.ringWr_lt_of_ready hr) n

/-- The occupied bytes end where the write index stands. -/
theorem State.ringRd_add_occ (hr : s.ready = true) : (s.ringRd + s.occ) % s.cfg.ringCap = s.ringWr :=
  ((State.occ_eq_iff_of_ready hr _).1 rfl).2

theorem State.occ_eq_zero_iff (hr : s.ready = true) : s.occ = 0 ↔ s.ringRd = s.ringWr := by
  have hrd := State.ringRd_lt_of_ready hr
  rw [State.occ_eq_iff_of_ready hr, Nat.add_zero, Nat.mod_eq_of_lt hrd, and_iff_right (by omega)]

theorem State.occ_lt_256 (hr : s.ready = true) : s.occ < 256 :=
  (State.occ_lt (State.ringCap_mem_of_ready hr)).trans_le (ringCaps_pos (State.ringCap_mem_of_ready hr)).2

/-! ### Reading successive bytes (R61) -/

theorem State.ringReadAll_congr (hc : t.cfg = s.cfg) (hread : t.ringRead = s.ringRead) (i n : Nat) :
    t.ringReadAll i n = s.ringReadAll i n := by
  have hnext (j : Nat) : t.ringNext j = s.ringNext j := by simp only [State.ringNext, State.ringMask, hc]
  induction n generalizing i with
  | zero => rfl
  | succ n ih => rw [State.ringReadAll, State.ringReadAll, hread, hnext, ih]

theorem State.ringReadAll_add (s : State) (i a b : Nat) :
    s.ringReadAll i (a + b) = s.ringReadAll i a ++ s.ringReadAll (s.ringAdvance i a) b := by
  induction a generalizing i with
  | zero => rw [Nat.zero_add]; rfl
  | succ a ih => rw [Nat.succ_add, State.ringReadAll, ih]; rfl

/-- The message bytes of the record at the read index, as R212 reads them. -/
theorem State.ringReadAll_message (hr : s.ready = true) (n : Nat) :
    s.ringReadAll (s.ringNext s.ringRd) n =
      (List.range n).map fun k => s.ringRead ((s.ringRd + 1 + k) % s.cfg.ringCap) := by
  have hc := State.ringCap_mem_of_ready hr
  rw [State.ringReadAll_eq hc (State.ringNext_lt hc _), State.ringNext_eq hc]
  simp only [Nat.mod_add_mod]

/-! ### Records (R38) -/

/-- The bytes of one record: the header, one more than the message's length, and the message (R211). -/
def ringRecord (m : List Byte) : List Byte := BitVec.ofNat 8 (m.length + 1) :: m

@[simp] theorem ringRecord_length (m : List Byte) : (ringRecord m).length = m.length + 1 := rfl

theorem flatMap_ringRecord_eq_nil {q : List (List Byte)} : q.flatMap ringRecord = [] ↔ q = [] := by
  cases q <;> simp [ringRecord]

/-- The bytes a header counts are the record of the bytes behind it. -/
theorem State.ringReadAll_header (s : State) (i : Nat) (h : 0 < (s.ringRead i).toNat) :
    s.ringReadAll i (s.ringRead i).toNat = ringRecord (s.ringReadAll (s.ringNext i) ((s.ringRead i).toNat - 1)) := by
  obtain ⟨n, hn⟩ : ∃ n, (s.ringRead i).toNat = n + 1 := ⟨_, (Nat.sub_add_cancel h).symm⟩
  have hhead : s.ringRead i = BitVec.ofNat 8 (n + 1) := by rw [← hn, BitVec.ofNat_toNat, BitVec.setWidth_eq]
  rw [hn, Nat.add_sub_cancel, State.ringReadAll, ringRecord, State.ringReadAll_length, hhead]

/-- When bytes of the ring begin with the record of `m`: its header is there, and `m` and the rest are read behind
it. -/
theorem State.ringReadAll_eq_record_append_iff {i n : Nat} (hn : n < 256) {m rest : List Byte} :
    s.ringReadAll i n = ringRecord m ++ rest ↔
      (s.ringRead i).toNat = m.length + 1 ∧ m.length + 1 ≤ n ∧ m = s.ringReadAll (s.ringNext i) m.length ∧
        rest = s.ringReadAll (s.ringAdvance i (m.length + 1)) (n - (m.length + 1)) := by
  have hsplit (hh : (s.ringRead i).toNat = m.length + 1) (hle : m.length + 1 ≤ n) : s.ringReadAll i n =
      ringRecord (s.ringReadAll (s.ringNext i) m.length) ++
        s.ringReadAll (s.ringAdvance i (m.length + 1)) (n - (m.length + 1)) := by
    have hrec := s.ringReadAll_header i (by omega)
    rw [hh, Nat.add_sub_cancel] at hrec
    rw [← hrec, ← State.ringReadAll_add, Nat.add_sub_cancel' hle]
  constructor
  · intro h
    have hlen := congrArg List.length h
    rw [State.ringReadAll_length, List.length_append, ringRecord_length] at hlen
    obtain ⟨k, rfl⟩ : ∃ k, n = k + 1 := ⟨m.length + rest.length, by omega⟩
    have hhead : s.ringRead i = BitVec.ofNat 8 (m.length + 1) := (List.cons.inj h).1
    have hh : (s.ringRead i).toNat = m.length + 1 := by
      rw [hhead, BitVec.toNat_ofNat, Nat.mod_eq_of_lt (by omega)]
    rw [hsplit hh (by omega)] at h
    obtain ⟨hrec, hrest⟩ := List.append_inj h (by simp)
    exact ⟨hh, by omega, (List.cons.inj hrec).2.symm, hrest.symm⟩
  · rintro ⟨hh, hle, hm, hrest⟩
    rw [hsplit hh hle, ← hm, ← hrest]

theorem State.recordsFrom_eq_none (fuel : Nat) {i n : Nat} (hn : n ≠ 0)
    (h : (s.ringRead i).toNat = 0 ∨ (s.ringRead i).toNat > n) : s.recordsFrom (fuel + 1) i n = none := by
  rw [State.recordsFrom, if_neg hn]
  exact if_pos h

theorem State.recordsFrom_eq_map (fuel : Nat) {i n : Nat} (h0 : 0 < (s.ringRead i).toNat)
    (h : (s.ringRead i).toNat ≤ n) : s.recordsFrom (fuel + 1) i n =
      (s.recordsFrom fuel (s.ringAdvance i (s.ringRead i).toNat) (n - (s.ringRead i).toNat)).map
        (s.ringReadAll (s.ringNext i) ((s.ringRead i).toNat - 1) :: ·) := by
  rw [State.recordsFrom, if_neg (by omega)]
  exact if_neg (by omega)

/-- The records found first: one with a header within the bytes, then those behind it. -/
theorem State.recordsFrom_eq_cons_iff (fuel : Nat) {i n : Nat} {m : List Byte} {q : List (List Byte)} :
    s.recordsFrom (fuel + 1) i n = some (m :: q) ↔
      (s.ringRead i).toNat = m.length + 1 ∧ m.length + 1 ≤ n ∧ m = s.ringReadAll (s.ringNext i) m.length ∧
        s.recordsFrom fuel (s.ringAdvance i (m.length + 1)) (n - (m.length + 1)) = some q := by
  by_cases hh : 0 < (s.ringRead i).toNat ∧ (s.ringRead i).toNat ≤ n
  · obtain ⟨h0, hle⟩ := hh
    rw [State.recordsFrom_eq_map fuel h0 hle, Option.map_eq_some_iff]
    constructor
    · rintro ⟨q', hq', he⟩
      obtain ⟨hm, rfl⟩ := List.cons.inj he
      have hlen := congrArg List.length hm
      rw [State.ringReadAll_length] at hlen
      have hhead : (s.ringRead i).toNat = m.length + 1 := by omega
      rw [hhead] at hq' hm
      exact ⟨hhead, by omega, hm.symm, hq'⟩
    · rintro ⟨hhead, -, hm, hq⟩
      rw [hhead, Nat.add_sub_cancel, ← hm]
      exact ⟨q, hq, rfl⟩
  · have hnone : s.recordsFrom (fuel + 1) i n ≠ some (m :: q) := by
      by_cases hn : n = 0
      · simp [State.recordsFrom, hn]
      · rw [State.recordsFrom_eq_none fuel hn (by omega)]
        nofun
    refine iff_of_false hnone ?_
    rintro ⟨hhead, hle, -⟩
    omega

/-- The empty queue of records is read from no bytes only. -/
theorem State.recordsFrom_eq_nil_iff (fuel : Nat) {i n : Nat} : s.recordsFrom fuel i n = some [] ↔ n = 0 := by
  cases fuel with
  | zero => by_cases hn : n = 0 <;> simp [State.recordsFrom, hn]
  | succ fuel =>
    by_cases hn : n = 0
    · simp [State.recordsFrom, hn]
    · refine iff_of_false ?_ hn
      by_cases hh : (s.ringRead i).toNat = 0 ∨ (s.ringRead i).toNat > n
      · rw [State.recordsFrom_eq_none fuel hn hh]
        nofun
      · rw [State.recordsFrom_eq_map fuel (by omega) (by omega)]
        simp

/-- R38's records, read without fuel: bytes of the ring are the records of the messages `q`. -/
theorem State.recordsFrom_eq_some_iff {fuel i n : Nat} (hf : n ≤ fuel) (hn : n < 256) {q : List (List Byte)} :
    s.recordsFrom fuel i n = some q ↔ s.ringReadAll i n = q.flatMap ringRecord := by
  induction q generalizing fuel i n with
  | nil => rw [State.recordsFrom_eq_nil_iff, List.flatMap_nil, ← List.length_eq_zero_iff, State.ringReadAll_length]
  | cons m q ih =>
    rw [List.flatMap_cons, State.ringReadAll_eq_record_append_iff hn]
    cases fuel with
    | zero =>
      obtain rfl : n = 0 := by omega
      simp [State.recordsFrom]
    | succ fuel =>
      rw [State.recordsFrom_eq_cons_iff, ih (by omega) (by omega), eq_comm (b := List.flatMap ringRecord q)]

/-- The bytes the ring holds, oldest first. -/
def State.occupied (s : State) : List Byte := s.ringReadAll s.ringRd s.occ

@[simp] theorem State.occupied_length (s : State) : s.occupied.length = s.occ := s.ringReadAll_length _ _

/-- R38: the queue is `q` exactly when the occupied bytes are the records of `q`. -/
theorem State.ringQueue_eq_some_iff (hr : s.ready = true) {q : List (List Byte)} :
    s.ringQueue = some q ↔ s.occupied = q.flatMap ringRecord :=
  State.recordsFrom_eq_some_iff le_rfl (State.occ_lt_256 hr)

/-! ### `RING_SPACE` and `RING_OCCUPIED` (R213, R214) -/

theorem exec_ringSpace (hr : s.ready = true) : exec .ringSpace s = .next (s.emit (.result (.count s.space))) := by
  rw [exec, execRingSpace, State.perform_of_ready hr, Effect.commit_done]

theorem exec_ringOccupied (hr : s.ready = true) : exec .ringOccupied s = .next (s.emit (.result (.count s.occ))) := by
  rw [exec, execRingOccupied, State.perform_of_ready hr, Effect.commit_done]

/-! ### `RING_PUSH` (R211) -/

theorem exec_ringPush_of_lt (hr : s.ready = true) {msg : List Byte} (h : s.space < msg.length + 2) :
    exec (.ringPush msg) s = .next (s.halt .ringOverflow (faultInfoOf msg.length 0x03)) := by
  rw [exec, execRingPush, State.perform_of_ready hr, if_pos h, Effect.commit_raise]

theorem exec_ringPush_of_le (hr : s.ready = true) {msg : List Byte} (h : msg.length + 2 ≤ s.space) :
    exec (.ringPush msg) s = .next (s.ringPutAll (ringRecord msg)) := by
  rw [exec, execRingPush, State.perform_of_ready hr, if_neg (by omega), Effect.commit_done]
  rfl

theorem State.ringPutAll_cfg (s : State) (bs : List Byte) : (s.ringPutAll bs).cfg = s.cfg := by
  rw [State.ringPutAll_eq]

theorem State.ringPutAll_boots (s : State) (bs : List Byte) : (s.ringPutAll bs).boots = s.boots := by
  rw [State.ringPutAll_eq]

theorem State.ringPutAll_ringRd (s : State) (bs : List Byte) : (s.ringPutAll bs).ringRd = s.ringRd := by
  rw [State.ringPutAll_eq]

/-- R211's loop writes below the capacity only. -/
theorem State.get?_ringPutAll_of_ge (hc : s.cfg.ringCap ∈ Config.ringCaps) (hw : s.ringWr < s.cfg.ringCap)
    (bs : List Byte) {a : Nat} (ha : s.cfg.ringCap ≤ a) : (s.ringPutAll bs).ringMem.get? a = s.ringMem.get? a := by
  induction bs generalizing s with
  | nil => rfl
  | cons b bs ih =>
    exact (ih (s := s.ringPut b) hc (State.ringNext_lt hc _) ha).trans (Memory.get?_set_of_ne _ _ (by omega))

theorem State.ringPutAll_ready (hr : s.ready = true) (bs : List Byte) : (s.ringPutAll bs).ready = true := by
  obtain ⟨hh, hcfg, hshape, hrest⟩ := s.ready_iff_parts.1 hr
  obtain ⟨hlen, hrd, hwr, htw, htf, hrw, hrf, hmw, hmf⟩ := s.shapeOk_iff.1 hshape
  have hc := State.ringCap_mem_of_ready hr
  have hw := State.ringPutAll_ringWr hc hwr bs
  have hlt : (s.ringPutAll bs).ringWr < s.cfg.ringCap := hw ▸ Nat.mod_lt _ (by omega)
  have hwf := State.ringPutAll_wf hmw bs
  have hfits := State.ringPutAll_fits hc hwr hmf bs
  rw [State.ringPutAll_eq]
  exact (State.ready_iff_parts _).2
    ⟨hh, hcfg, (State.shapeOk_iff _).2 ⟨hlen, hrd, hlt, htw, htf, hrw, hrf, hwf, hfits⟩, hrest⟩

/-- A record that fits stands where the write index was. -/
theorem State.ringReadAll_ringPutAll_new (hr : s.ready = true) (bs : List Byte) (hl : bs.length ≤ s.cfg.ringCap) :
    (s.ringPutAll bs).ringReadAll s.ringWr bs.length = bs := by
  have hc := State.ringCap_mem_of_ready hr
  have hwr := State.ringWr_lt_of_ready hr
  rw [State.ringReadAll_eq (by rwa [State.ringPutAll_cfg]) (by rwa [State.ringPutAll_cfg]), State.ringPutAll_cfg]
  refine List.ext_getElem (by simp) fun k hk hk' => ?_
  rw [List.getElem_map, List.getElem_range]
  refine Memory.read_of_get? ?_ _ _
  rw [State.get?_ringPutAll hc hwr bs hl k (by omega), dif_pos hk']

/-- A record that fits leaves the occupied bytes as they are. -/
theorem State.ringReadAll_ringPutAll_old (hr : s.ready = true) (bs : List Byte) (hl : bs.length ≤ s.space) :
    (s.ringPutAll bs).ringReadAll s.ringRd s.occ = s.occupied := by
  have hc := State.ringCap_mem_of_ready hr
  have hwr := State.ringWr_lt_of_ready hr
  have hrd := State.ringRd_lt_of_ready hr
  have hocc := State.occ_lt hc
  rw [State.space] at hl
  rw [State.occupied, State.ringReadAll_eq hc hrd,
    State.ringReadAll_eq (by rwa [State.ringPutAll_cfg]) (by rwa [State.ringPutAll_cfg]), State.ringPutAll_cfg]
  refine List.map_congr_left fun k hk => ?_
  have hk := List.mem_range.1 hk
  have hfromWr : (s.ringRd + k) % s.cfg.ringCap = (s.ringWr + (s.cfg.ringCap - s.occ + k)) % s.cfg.ringCap := by
    rw [← State.ringRd_add_occ hr, Nat.mod_add_mod,
      show s.ringRd + s.occ + (s.cfg.ringCap - s.occ + k) = s.ringRd + k + s.cfg.ringCap by omega, Nat.add_mod_right]
  have hget := State.get?_ringPutAll hc hwr bs (by omega) (s.cfg.ringCap - s.occ + k) (by omega)
  rw [dif_neg (by omega)] at hget
  rw [hfromWr, State.ringRead, State.ringRead, Memory.read, Memory.read, hget, State.ringPutAll_boots]

/-- Bytes that leave one of the ring's free are put behind the occupied ones. -/
theorem State.ringPutAll_occ (hr : s.ready = true) (bs : List Byte) (hl : bs.length < s.space) :
    (s.ringPutAll bs).occ = s.occ + bs.length := by
  rw [State.space] at hl
  rw [State.occ_eq_iff_of_ready (State.ringPutAll_ready hr bs), State.ringPutAll_cfg, State.ringPutAll_ringRd,
    State.ringPutAll_ringWr (State.ringCap_mem_of_ready hr) (State.ringWr_lt_of_ready hr), ← State.ringRd_add_occ hr,
    Nat.mod_add_mod, Nat.add_assoc]
  exact ⟨by omega, rfl⟩

theorem State.ringPutAll_occupied (hr : s.ready = true) (bs : List Byte) (hl : bs.length < s.space) :
    (s.ringPutAll bs).occupied = s.occupied ++ bs := by
  have hc := State.ringCap_mem_of_ready hr
  have hend : (s.ringPutAll bs).ringAdvance s.ringRd s.occ = s.ringWr := by
    rw [State.ringAdvance_eq (by rwa [State.ringPutAll_cfg])
      (by rw [State.ringPutAll_cfg]; exact State.ringRd_lt_of_ready hr), State.ringPutAll_cfg, State.ringRd_add_occ hr]
  have hcap : bs.length ≤ s.cfg.ringCap := by rw [State.space] at hl; omega
  rw [State.occupied, State.ringPutAll_occ hr bs hl, State.ringPutAll_ringRd, State.ringReadAll_add, hend,
    State.ringReadAll_ringPutAll_old hr bs hl.le, State.ringReadAll_ringPutAll_new hr bs hcap]

/-- R217: a push appends its message to the queue. -/
theorem State.ringPutAll_ringQueue (hr : s.ready = true) {q : List (List Byte)} (hq : s.ringQueue = some q)
    {msg : List Byte} (h : msg.length + 2 ≤ s.space) :
    (s.ringPutAll (ringRecord msg)).ringQueue = some (q ++ [msg]) := by
  rw [State.ringQueue_eq_some_iff (State.ringPutAll_ready hr _), State.ringPutAll_occupied hr (ringRecord msg) h,
    (State.ringQueue_eq_some_iff hr).1 hq, List.flatMap_append, List.flatMap_singleton]

/-! ### `RING_POP` (R212) -/

theorem exec_ringPop_of_empty (hr : s.ready = true) (h : s.txBusy = true ∨ s.occ = 0) (toTestSink : Bool) :
    exec (.ringPop toTestSink) s = .next (s.emit (.result (.empty true))) := by
  rw [exec, execRingPop, State.perform_of_ready hr, if_pos (by simpa using h), Effect.commit_done]

theorem exec_ringPop_of_corrupt (hr : s.ready = true) (hb : s.txBusy = false) (ho : s.occ ≠ 0)
    (h : (s.ringRead s.ringRd).toNat = 0 ∨ s.occ < (s.ringRead s.ringRd).toNat) (toTestSink : Bool) :
    exec (.ringPop toTestSink) s = .next (s.halt .ringCorrupt (faultInfoOf (s.ringRead s.ringRd).toNat 0x04)) := by
  rw [exec, execRingPop, State.perform_of_ready hr, if_neg (by simp [hb, ho])]
  exact congrArg (Effect.commit · s) (if_pos h)

/-- A record taken out of the ring: the read index moved by its header. -/
def State.takeRecord (s : State) (h : Nat) : State := { s with ringRd := (s.ringRd + h) % s.cfg.ringCap }

/-- A record is taken out of the ring and its message handed over. -/
theorem exec_ringPop_of_record (hr : s.ready = true) (hb : s.txBusy = false) {h : Nat}
    (hh : h = (s.ringRead s.ringRd).toNat) (h0 : 0 < h) (ho : h ≤ s.occ) (toTestSink : Bool) :
    exec (.ringPop toTestSink) s =
      ((s.takeRecord h).handOver toTestSink (s.ringReadAll (s.ringNext s.ringRd) (h - 1))).commit s := by
  subst hh
  rw [exec, execRingPop, State.perform_of_ready hr, if_neg (by simp only [hb, Bool.false_or, beq_iff_eq]; omega),
    State.takeRecord, ← State.ringAdvance_header (State.ringCap_mem_of_ready hr) h0]
  exact congrArg (Effect.commit · s) (if_neg (by omega))

theorem exec_ringPop_true (hr : s.ready = true) (hb : s.txBusy = false) {h : Nat}
    (hh : h = (s.ringRead s.ringRd).toNat) (h0 : 0 < h) (ho : h ≤ s.occ) :
    exec (.ringPop true) s = .next { s.takeRecord h with
      trace := s.trace ++
        [.sinkOut (s.ringReadAll (s.ringNext s.ringRd) (h - 1) ++ [s.cfg.term]), .result (.empty false)] } := by
  rw [exec_ringPop_of_record hr hb hh h0 ho]
  simp [State.handOver, State.emit, State.takeRecord]

/-- What a transmission begun with `text` leaves (R141). -/
def State.transmitting (s : State) (text : List Byte) : State :=
  { s with
    txBuf := s.txBuf.setAll 0 text, txLen := BitVec.ofNat 8 text.length, txSent := 0, txBusy := true,
    txState := .sending, txBlIe := true }

/-- A pop to the transmitter does with the message what `SER_START` does with its text. -/
theorem exec_ringPop_false (hr : s.ready = true) (hb : s.txBusy = false) {h : Nat}
    (hh : h = (s.ringRead s.ringRd).toNat) (h0 : 0 < h) (ho : h ≤ s.occ) {m : List Byte}
    (hm : m = s.ringReadAll (s.ringNext s.ringRd) (h - 1)) :
    (s.cfg.term ∈ m → exec (.ringPop false) s = .refused .textHasTerm) ∧
    (s.cfg.term ∉ m → s.cfg.txBufLen < m.length →
      exec (.ringPop false) s = .next (s.halt .txOverflow (faultInfoOf m.length 0x02))) ∧
    (s.cfg.term ∉ m → m.length ≤ s.cfg.txBufLen →
      exec (.ringPop false) s = .next { (s.takeRecord h).transmitting m with
        trace := s.trace ++ [.pmBlock s.cfg.txPmLevel, .result (.empty false)] }) := by
  have hexec := exec_ringPop_of_record hr hb hh h0 ho false
  rw [← hm, State.handOver, if_neg (by decide)] at hexec
  rw [hexec]
  obtain ⟨hbusy, -⟩ | ⟨-, ht, he⟩ | ⟨-, ht, hl, he⟩ | ⟨-, ht, hl, he⟩ :=
    (s.takeRecord h).startTransmission_cases m
  · exact absurd (hb.symm.trans hbusy) (by decide)
  · rw [he]
    exact ⟨fun _ => rfl, fun h => absurd ht h, fun h => absurd ht h⟩
  · rw [he]
    exact ⟨fun h => absurd h ht, fun _ _ => rfl, fun _ h => absurd hl h.not_gt⟩
  · rw [he]
    refine ⟨fun h => absurd h ht, fun _ h => absurd h hl.not_gt, fun _ _ => ?_⟩
    simp [State.emit, State.takeRecord, State.transmitting]

/-! ### What the operations leave ready -/

theorem State.txOk_of_ready (hr : s.ready = true) : s.txOk = true := by
  obtain ⟨-, -, -, -, h, -⟩ := s.ready_iff_parts.1 hr
  exact h

theorem State.txBufLen_le_of_ready (hr : s.ready = true) : s.cfg.txBufLen ≤ 255 := by
  obtain ⟨-, h, -⟩ := (cfgValid_iff _).1 (State.cfg_valid_of_ready hr)
  exact h

theorem State.takeRecord_ready (hr : s.ready = true) (h : Nat) : (s.takeRecord h).ready = true := by
  obtain ⟨hh, hcfg, hshape, hrest⟩ := s.ready_iff_parts.1 hr
  obtain ⟨hlen, hrd, hshape⟩ := s.shapeOk_iff.1 hshape
  exact (State.ready_iff_parts _).2
    ⟨hh, hcfg, (State.shapeOk_iff _).2 ⟨hlen, Nat.mod_lt _ (Nat.zero_lt_of_lt hrd), hshape⟩, hrest⟩

/-- A text that fits begins a transmission from `TX_IDLE` (R141). -/
theorem State.transmitting_ready (hr : s.ready = true) (hb : s.txBusy = false) {text : List Byte}
    (hl : text.length ≤ s.cfg.txBufLen) : (s.transmitting text).ready = true := by
  obtain ⟨hh, hcfg, hshape, hbus, htx, hrx⟩ := s.ready_iff_parts.1 hr
  obtain ⟨hlen, hrd, hwr, htw, htf, hring⟩ := s.shapeOk_iff.1 hshape
  obtain ⟨-, hbusy, -, hcomplete, -⟩ := s.txOk_iff.1 htx
  have hmax := State.txBufLen_le_of_ready hr
  have hidle : s.txState = .idle := by simpa [hb] using hbusy
  have hcie : s.txCIe = false := by simpa [hidle] using hcomplete
  have hend : 0 + text.length ≤ s.cfg.txBufLen := (Nat.zero_add _).trans_le hl
  refine (State.ready_iff_parts _).2 ⟨hh, hcfg, (State.shapeOk_iff _).2 ⟨hlen, hrd, hwr, Memory.setAll_wf _ _ _ htw,
    Memory.setAll_fits _ _ hend htf, hring⟩, hbus, (State.txOk_iff _).2 ?_, hrx⟩
  have hlength : (BitVec.ofNat 8 text.length).toNat = text.length := by
    rw [BitVec.toNat_ofNat, Nat.mod_eq_of_lt (by omega)]
  simp [State.transmitting, hcie, hlength, hl]

theorem State.txState_of_txBlIe (hr : s.ready = true) (h : s.txBlIe = true) : s.txState = .sending := by
  obtain ⟨-, -, hblie, -⟩ := s.txOk_iff.1 (State.txOk_of_ready hr)
  exact hblie.1 h

/-- A byte sent leaves the transmitter in `SENDING`, at most all bytes sent (R142). -/
theorem State.sendByte_ready (hr : s.ready = true) : s.sendByte.ready = true := by
  by_cases hlt : s.txSent < s.txLen
  · obtain ⟨hh, hcfg, hshape, hbus, htx, hrx⟩ := s.ready_iff_parts.1 hr
    obtain ⟨hst, hbusy, hblie, hcie, -, hlen, hdone⟩ := s.txOk_iff.1 htx
    rw [State.sendByte_of_lt hlt]
    refine (State.ready_iff_parts _).2 ⟨hh, hcfg, hshape, hbus, (State.txOk_iff _).2
      ⟨hst, hbusy, hblie, hcie, ?_, hlen, fun hc => ?_⟩, hrx⟩
    · bv_omega
    · have := hdone hc
      bv_omega
  · rwa [State.sendByte_of_not_lt hlt]

/-- The switch to `COMPLETING` (R142). -/
theorem State.finishSending_ready (hr : s.ready = true) (h : s.txBlIe = true) : s.finishSending.ready = true := by
  by_cases heq : s.txSent = s.txLen
  · obtain ⟨hh, hcfg, hshape, hbus, htx, hrx⟩ := s.ready_iff_parts.1 hr
    obtain ⟨-, hbusy, -, -, hsent, hlen, -⟩ := s.txOk_iff.1 htx
    have hbusy : s.txBusy = true := by rw [hbusy, State.txState_of_txBlIe hr h]; decide
    rw [State.finishSending_of_eq heq]
    exact (State.ready_iff_parts _).2 ⟨hh, hcfg, hshape, hbus, (State.txOk_iff _).2
      (by simp [hbusy, heq, hlen]), hrx⟩
  · rwa [State.finishSending_of_ne heq]

theorem State.sendByte_txBlIe (s : State) : s.sendByte.txBlIe = s.txBlIe := by
  unfold State.sendByte
  split <;> rfl

/-- R143. -/
theorem State.ready_of_completed (hr : s.ready = true) (h : s.txCIe = true) (tr : List Output) :
    ({ s with txBusy := false, txCIe := false, txState := .idle, trace := tr } : State).ready = true := by
  obtain ⟨hh, hcfg, hshape, hbus, htx, hrx⟩ := s.ready_iff_parts.1 hr
  obtain ⟨-, -, hblie, hcie, hsent, hlen, -⟩ := s.txOk_iff.1 htx
  have hoff : s.txBlIe = false := by simpa [hcie.1 h] using hblie
  exact (State.ready_iff_parts _).2
    ⟨hh, hcfg, hshape, hbus, (State.txOk_iff _).2 (by simp [hoff, hsent, hlen]), hrx⟩

/-- R172 in `RX_IDLE`. -/
theorem State.ready_of_begun_frame (hr : s.ready = true) :
    ({ s with
      rxBuf := s.rxBuf.set 0 s.cfg.sofMarker, rxLen := 1, rxValid := false, rxByteIe := true, rxEofIe := true,
      rxBlock := false, rxState := .collecting } : State).ready = true := by
  obtain ⟨hh, hcfg, hshape, hbus, htx, -⟩ := s.ready_iff_parts.1 hr
  obtain ⟨-, hrd, hwr, htw, htf, hrw, hrf, hring⟩ := s.shapeOk_iff.1 hshape
  have hlen := State.two_le_rxBufLen hr
  have hpos : 0 < s.cfg.rxBufLen := Nat.zero_lt_of_lt hlen
  exact (State.ready_iff_parts _).2 ⟨hh, hcfg, (State.shapeOk_iff _).2 ⟨hpos, hrd, hwr, htw, htf,
    Memory.set_wf _ _ _ hrw, Memory.set_fits _ _ hpos hrf, hring⟩, hbus, htx, (State.rxOk_iff _).2 (by simp)⟩

/-- R174. -/
theorem State.ready_of_ended_frame (hr : s.ready = true) (hl : s.rxLen < s.cfg.rxBufLen) (tr : List Output) :
    ({ s with
      rxBuf := s.rxBuf.set s.rxLen s.cfg.term, rxBlock := true, rxByteIe := false, rxEofIe := false, rxValid := true,
      rxState := .idle, trace := tr } : State).ready = true := by
  obtain ⟨hh, hcfg, hshape, hbus, htx, -⟩ := s.ready_iff_parts.1 hr
  obtain ⟨hlen, hrd, hwr, htw, htf, hrw, hrf, hring⟩ := s.shapeOk_iff.1 hshape
  exact (State.ready_iff_parts _).2 ⟨hh, hcfg, (State.shapeOk_iff _).2 ⟨hlen, hrd, hwr, htw, htf,
    Memory.set_wf _ _ _ hrw, Memory.set_fits _ _ hl hrf, hring⟩, hbus, htx, (State.rxOk_iff _).2 (by simp [hl])⟩

/-- R35, R36, R39: what an operation leaves without a fault is ready for the next. -/
theorem Leaves.ready {i : Instr} (hr : s.ready = true) (h : Leaves s i t) : t.ready = true := by
  cases h with
  | begins | selected | commanded | confirmed | highByte | lowByte | stops =>
    exact State.ready_of_bus_fields hr (by decide) _ _ _ _ _ _
  | retriesWrite | retriesRead | holds | discards | returnsFrame | returnsDraw | popsNothing | countsSpace
  | countsOccupied => exact hr
  | starts text hb _ hl => exact State.transmitting_ready hr hb hl
  | sends h => exact State.finishSending_ready (State.sendByte_ready hr) (s.sendByte_txBlIe.trans h)
  | completes h => exact State.ready_of_completed hr h _
  | beginsFrame => exact State.ready_of_begun_frame hr
  | restartsFrame _ _ h => exact State.restartFrame_ready hr h
  | appends _ b _ h hl => exact State.collectByte_ready hr h hl b
  | endsFrame _ hl => exact State.ready_of_ended_frame hr hl _
  | lineEndsFrame h hl =>
    exact State.ready_of_ended_frame (State.collectByte_ready hr h (Nat.lt_of_succ_lt hl) s.cfg.eofMarker) hl _
  | pushes => exact State.ringPutAll_ready hr _
  | popsToSink h => exact State.takeRecord_ready hr h
  | popsToTransmitter h m _ _ _ hb _ _ hl =>
    exact State.transmitting_ready (State.takeRecord_ready hr h) hb hl

/-! ### The queue (R217) -/

/-- R217: a pop that succeeds takes the oldest message of the queue. -/
theorem State.takeRecord_ringQueue (hr : s.ready = true) {m : List Byte} {q : List (List Byte)}
    (hq : s.ringQueue = some (m :: q)) :
    (s.ringRead s.ringRd).toNat = m.length + 1 ∧ m.length + 1 ≤ s.occ ∧
      m = s.ringReadAll (s.ringNext s.ringRd) m.length ∧ (s.takeRecord (m.length + 1)).ringQueue = some q := by
  have hc := State.ringCap_mem_of_ready hr
  have hrd := State.ringRd_lt_of_ready hr
  rw [State.ringQueue_eq_some_iff hr, State.occupied, List.flatMap_cons,
    State.ringReadAll_eq_record_append_iff (State.occ_lt_256 hr)] at hq
  obtain ⟨hhead, hle, hm, hrest⟩ := hq
  have hocc : (s.takeRecord (m.length + 1)).occ = s.occ - (m.length + 1) := by
    refine (State.occ_eq_iff_of_ready (State.takeRecord_ready hr _) _).2
      ⟨(Nat.sub_le _ _).trans_lt (State.occ_lt hc), ?_⟩
    calc ((s.ringRd + (m.length + 1)) % s.cfg.ringCap + (s.occ - (m.length + 1))) % s.cfg.ringCap
        = (s.ringRd + s.occ) % s.cfg.ringCap := by rw [Nat.mod_add_mod]; congr 1; omega
      _ = s.ringWr := State.ringRd_add_occ hr
  refine ⟨hhead, hle, hm, (State.ringQueue_eq_some_iff (State.takeRecord_ready hr _)).2 ?_⟩
  rw [hrest, State.occupied, hocc, State.ringAdvance_eq hc hrd]
  exact State.ringReadAll_congr (s := s) (t := s.takeRecord _) rfl rfl _ _

theorem State.ringQueue_nil_iff (hr : s.ready = true) : s.ringQueue = some [] ↔ s.occ = 0 := by
  rw [State.ringQueue_eq_some_iff hr, List.flatMap_nil, ← List.length_eq_zero_iff, State.occupied_length]

/-- Two states with the same ring: its store, its indices and what decides how it is read. -/
structure SameRing (s t : State) : Prop where
  cfg : t.cfg = s.cfg
  boots : t.boots = s.boots
  ringMem : t.ringMem = s.ringMem
  ringRd : t.ringRd = s.ringRd
  ringWr : t.ringWr = s.ringWr

theorem SameRing.trans {u : State} (h : SameRing s t) (h' : SameRing t u) : SameRing s u :=
  ⟨h'.cfg.trans h.cfg, h'.boots.trans h.boots, h'.ringMem.trans h.ringMem, h'.ringRd.trans h.ringRd,
    h'.ringWr.trans h.ringWr⟩

theorem SameRing.ringQueue (h : SameRing s t) (hs : s.ready = true) (ht : t.ready = true) :
    t.ringQueue = s.ringQueue := by
  have hread : t.ringRead = s.ringRead := funext fun i => by simp only [State.ringRead, h.ringMem, h.boots]
  have hocc : t.occ = s.occ := by simp only [State.occ, State.ringMask, h.cfg, h.ringRd, h.ringWr]
  refine Option.ext fun q => ?_
  rw [State.ringQueue_eq_some_iff ht, State.ringQueue_eq_some_iff hs, State.occupied, State.occupied,
    State.ringReadAll_congr h.cfg hread, hocc, h.ringRd]

/-- The oldest message is popped whole to the test sink. -/
theorem exec_ringPop_true_of_ringQueue (hr : s.ready = true) {m : List Byte} {q : List (List Byte)}
    (hq : s.ringQueue = some (m :: q)) (hb : s.txBusy = false) :
    ∃ t, exec (.ringPop true) s = .next t ∧ t.ready = true ∧ t.ringQueue = some q ∧
      t.trace = s.trace ++ [.sinkOut (m ++ [s.cfg.term]), .result (.empty false)] ∧ t.ringWr = s.ringWr := by
  obtain ⟨hhead, hle, hm, hqueue⟩ := State.takeRecord_ringQueue hr hq
  have hready := State.takeRecord_ready hr (m.length + 1)
  refine ⟨_, exec_ringPop_true hr hb hhead.symm (Nat.succ_pos _) hle, hready, ?_, ?_, rfl⟩
  · refine (SameRing.ringQueue ?_ hready ?_).trans hqueue
    · exact ⟨rfl, rfl, rfl, rfl, rfl⟩
    · exact hready
  · rw [Nat.add_sub_cancel, ← hm]

/-- The bytes of the transmission begun are the text. -/
theorem State.transmitting_txRead (s : State) (text : List Byte) :
    (List.range text.length).map (s.transmitting text).txRead = text := by
  refine List.ext_getElem (by simp) fun k hk hk' => ?_
  rw [List.getElem_map, List.getElem_range]
  refine Memory.read_of_get? ?_ _ _
  simp [State.transmitting, Memory.get?_setAll, hk']

/-- The oldest message is popped whole to the transmitter. -/
theorem exec_ringPop_false_of_ringQueue (hr : s.ready = true) {m : List Byte} {q : List (List Byte)}
    (hq : s.ringQueue = some (m :: q)) (hb : s.txBusy = false) (ht : s.cfg.term ∉ m)
    (hl : m.length ≤ s.cfg.txBufLen) :
    ∃ t, exec (.ringPop false) s = .next t ∧ t.ready = true ∧ t.ringQueue = some q ∧ t.txState = .sending ∧
      t.txSent = 0 ∧ t.txLen.toNat = m.length ∧ (List.range m.length).map t.txRead = m := by
  obtain ⟨hhead, hle, hm, hqueue⟩ := State.takeRecord_ringQueue hr hq
  have htaken := State.takeRecord_ready hr (m.length + 1)
  have hready := State.transmitting_ready (s := s.takeRecord (m.length + 1)) htaken hb hl
  have hmax := State.txBufLen_le_of_ready hr
  obtain ⟨-, -, hstarted⟩ := exec_ringPop_false hr hb hhead.symm (Nat.succ_pos _) hle hm
  refine ⟨_, hstarted ht hl, hready, ?_, rfl, rfl, ?_, (s.takeRecord (m.length + 1)).transmitting_txRead m⟩
  · refine (SameRing.ringQueue ?_ htaken ?_).trans hqueue
    · exact ⟨rfl, rfl, rfl, rfl, rfl⟩
    · exact hready
  · exact Nat.mod_eq_of_lt (by omega)

/-! ### Operations that leave the ring alone -/

theorem State.sendByte_sameRing (s : State) : SameRing s s.sendByte := by
  unfold State.sendByte
  split <;> exact ⟨rfl, rfl, rfl, rfl, rfl⟩

theorem State.finishSending_sameRing (s : State) : SameRing s s.finishSending := by
  unfold State.finishSending
  split <;> exact ⟨rfl, rfl, rfl, rfl, rfl⟩

/-- R63: no operation but a push or a pop changes the ring. -/
theorem Leaves.sameRing {i : Instr} (hpush : ∀ m, i ≠ .ringPush m) (hpop : ∀ b, i ≠ .ringPop b)
    (h : Leaves s i t) : SameRing s t := by
  cases h with
  | sends => exact s.sendByte_sameRing.trans s.sendByte.finishSending_sameRing
  | pushes msg => exact absurd rfl (hpush msg)
  | popsNothing b => exact absurd rfl (hpop b)
  | popsToSink => exact absurd rfl (hpop true)
  | popsToTransmitter => exact absurd rfl (hpop false)
  | _ => exact ⟨rfl, rfl, rfl, rfl, rfl⟩

/-- A run without a fault that neither pushes nor pops leaves the ring as it was. -/
theorem runAll_sameRing {is : List Instr} (hr : s.ready = true)
    (his : ∀ i ∈ is, (∀ m, i ≠ .ringPush m) ∧ ∀ b, i ≠ .ringPop b) (h : runAll is s = .next t)
    (ht : t.faultCode = 0) : t.ready = true ∧ SameRing s t := by
  induction is generalizing s with
  | nil =>
    cases h
    exact ⟨hr, rfl, rfl, rfl, rfl, rfl⟩
  | cons i is ih =>
    obtain ⟨⟨hpush, hpop⟩, his⟩ := List.forall_mem_cons.1 his
    cases he : exec i s with
    | next u =>
      rw [runAll_cons_of_next he] at h
      obtain ⟨-, hl | ⟨c, info, -, rfl⟩⟩ := exec_cases he
      · obtain ⟨hready, hsame⟩ := ih (hl.ready hr) his h
        exact ⟨hready, (hl.sameRing hpush hpop).trans hsame⟩
      · have := not_halted_of_runAll h ht
        simp at this
    | fault f => simp [runAll, he] at h
    | refused r => simp [runAll, he] at h

/-- R215: a message pushed on an empty ring is popped back whole, whatever runs between that is no push and no pop and
does not fault. -/
theorem push_then_pop_of_empty (hr : s.ready = true) (ho : s.occ = 0) {msg : List Byte}
    (hl : msg.length < s.cfg.ringCap - 1) {others : List Instr}
    (hothers : ∀ i ∈ others, (∀ m, i ≠ .ringPush m) ∧ ∀ b, i ≠ .ringPop b) {u : State}
    (hrun : runAll (.ringPush msg :: others) s = .next u) (hf : u.faultCode = 0) (hb : u.txBusy = false) :
    ∃ t, exec (.ringPop true) u = .next t ∧ t.ready = true ∧
      t.trace = u.trace ++ [.sinkOut (msg ++ [s.cfg.term]), .result (.empty false)] ∧
      t.ringRd = t.ringWr ∧ t.ringWr = (s.ringWr + (msg.length + 1)) % s.cfg.ringCap := by
  have hfit : msg.length + 2 ≤ s.space := by rw [State.space, ho]; omega
  rw [runAll_cons_of_next (exec_ringPush_of_le hr hfit)] at hrun
  have hpushed := State.ringPutAll_ready hr (ringRecord msg)
  obtain ⟨hu, hsame⟩ := runAll_sameRing hpushed hothers hrun hf
  have hqueue : u.ringQueue = some [msg] :=
    (hsame.ringQueue hpushed hu).trans (State.ringPutAll_ringQueue hr ((State.ringQueue_nil_iff hr).2 ho) hfit)
  obtain ⟨t, hpop, ht, hempty, htrace, hwr⟩ := exec_ringPop_true_of_ringQueue hu hqueue hb
  refine ⟨t, hpop, ht, ?_, (State.occ_eq_zero_iff ht).1 ((State.ringQueue_nil_iff ht).1 hempty), ?_⟩
  · rw [htrace, hsame.cfg, State.ringPutAll_cfg]
  · rw [hwr, hsame.ringWr,
      State.ringPutAll_ringWr (State.ringCap_mem_of_ready hr) (State.ringWr_lt_of_ready hr), ringRecord_length]

end Ring

/-- Settles O41: the overflow, and the record written behind the write index. -/
theorem ringPushStoresHeaderAndMessage : Obligations.RingPushStoresHeaderAndMessage := by
  intro msg s hr
  have hc := State.ringCap_mem_of_ready hr
  have hwr := State.ringWr_lt_of_ready hr
  refine ⟨rfl, rfl, exec_ringPush_of_lt hr, fun hfit => ⟨_, exec_ringPush_of_le hr hfit, fun k hk => ?_,
    fun a => State.get?_ringPutAll_of_ge hc hwr _, ?_⟩⟩
  · have hlen : (ringRecord msg).length ≤ s.cfg.ringCap := by
      rw [State.space] at hfit
      rw [ringRecord_length]
      omega
    rw [State.get?_ringPutAll hc hwr _ hlen k hk]
    cases k with
    | zero => rfl
    | succ k => by_cases hb : k < msg.length <;> simp [ringRecord, hb]
  · rw [State.ringPutAll_eq s (ringRecord msg), State.ringPutAll_ringWr hc hwr]
    rfl

/-- Settles O42: the sentinel, the corrupt header, and a record handed to each of the two sinks. -/
theorem ringPopReturnsOneRecord : Obligations.RingPopReturnsOneRecord := by
  intro toTestSink s h m hr hh hm
  rw [← State.ringReadAll_message hr] at hm
  refine ⟨rfl, rfl, fun he => exec_ringPop_of_empty hr he _, fun hb ho hbad => ?_, fun hb h0 ho => ?_,
    fun hb h0 ho => ?_, fun hb h0 ho => ?_, fun hb h0 ho => ?_⟩
  · subst hh
    exact exec_ringPop_of_corrupt hr hb ho hbad _
  · rintro rfl
    rw [exec_ringPop_true hr hb hh h0 ho, ← hm]
    rfl
  · rintro rfl
    obtain ⟨hrefused, -⟩ := exec_ringPop_false hr hb hh h0 ho hm
    exact hrefused
  · rintro rfl
    obtain ⟨-, hfault, -⟩ := exec_ringPop_false hr hb hh h0 ho hm
    exact hfault
  · rintro rfl ht hl
    obtain ⟨-, -, hstarted⟩ := exec_ringPop_false hr hb hh h0 ho hm
    refine ⟨_, hstarted ht hl, fun k => ?_, rfl⟩
    simp [State.transmitting, State.takeRecord, Memory.get?_setAll]

/-- Settles O43: the two counts, the masks read as reductions. -/
theorem ringQueriesCountModuloCapacity : Obligations.RingQueriesCountModuloCapacity := by
  intro s hr
  rw [← State.occ_eq (State.ringCap_mem_of_ready hr)]
  exact ⟨rfl, rfl, rfl, rfl, exec_ringOccupied hr, exec_ringSpace hr⟩

/-- Settles O45: a push and a pop with nothing between them are the case of no operations. -/
theorem pushThenPopYieldsTheMessage : Obligations.PushThenPopYieldsTheMessage := by
  intro msg s hr ho hb
  refine ⟨fun hl => ⟨?_, fun others u hothers => push_then_pop_of_empty hr ho hl hothers⟩, fun hl => ?_⟩
  · have hpush := exec_ringPush_of_le hr (msg := msg) (by rw [State.space, ho]; omega)
    have hready := State.ringPutAll_ready hr (ringRecord msg)
    have hframe := s.ringPutAll_eq (ringRecord msg)
    obtain ⟨t, hpop, ht⟩ := push_then_pop_of_empty hr ho hl (others := []) nofun (runAll_cons_of_next hpush [])
      (by simpa [State.halted] using ((State.ready_iff _).1 hready).1) (by rw [hframe]; exact hb)
    rw [hframe] at ht
    exact ⟨t, by rw [runAll_cons_of_next hpush, runAll_cons_of_next hpop, runAll], ht⟩
  · exact exec_ringPush_of_lt hr (by rw [State.space]; omega)

/-- Settles O46: the queue is read off the occupied bytes, to which a push appends a record and from which a pop takes
the first. -/
theorem ringIsAQueueOfMessages : Obligations.RingIsAQueueOfMessages := by
  intro s q hr hq
  refine ⟨?_, fun msg hfit => ⟨_, exec_ringPush_of_le hr hfit, State.ringPutAll_ready hr _,
    State.ringPutAll_ringQueue hr hq hfit⟩, ?_, ?_⟩
  · rw [← State.ringQueue_nil_iff hr, hq, Option.some_inj]
  · rintro m q' rfl hb
    obtain ⟨t, hexec, hready, hqueue, htrace, -⟩ := exec_ringPop_true_of_ringQueue hr hq hb
    exact ⟨t, hexec, hready, hqueue, htrace⟩
  · rintro m q' rfl hb ht hl
    exact exec_ringPop_false_of_ringQueue hr hq hb ht hl

end Sys2Proof.Machine

/-! PROOFS. The environment contract (60_exceptions.md): which conditions are gated, the bus conditions that never are,
and the power-mode arbiter. -/

namespace Sys2Proof.Machine

/-! ### Gated and ungated conditions (R258, R259) -/

/-- Settles O31: each engine's rule for a gated condition. -/
theorem gatedConditionsAreDiscarded : Obligations.GatedConditionsAreDiscarded := fun b _ hr =>
  ⟨exec_txByteReady_of_gated hr, exec_txComplete_of_gated hr, fun h => exec_rxByte_of_gated hr h b,
    exec_rxEndFrame_of_gated hr⟩

/-- Settles O23: a bus condition follows the table and leaves the block running, or finds a fault cell and halts it. -/
theorem busConditionsGoOnExactlyPerTable : Obligations.BusConditionsGoOnExactlyPerTable := by
  intro i s hr hp
  obtain ⟨t, he, hn, ht⟩ | ⟨hn, he⟩ := exec_bus_cases hr hp
  · have hf : t.faultCode = 0 := by simpa [State.halted] using (t.ready_iff.1 ht).1
    have htakes : busTakes s.busState i = true := by rw [← busNext_isSome, hn, Option.isSome_some]
    exact ⟨t, he, iff_of_true hf htakes⟩
  · have hf : (s.halt .busProtocol (busFaultInfo s.busState i.opcode)).faultCode ≠ 0 :=
      FaultCode.number_ne_zero .busProtocol
    have htakes : ¬ busTakes s.busState i = true := by rw [(busNext_eq_none_iff _ _).1 hn]; decide
    exact ⟨_, he, iff_of_false hf htakes⟩

section Arbiter

variable {s t : State} {l : Nat}

/-! ### The block counts (R272, R273) -/

theorem State.blockCount_of_lt (h : l < s.pmCount.length) : s.blockCount l = s.pmCount[l] :=
  List.getD_eq_getElem _ _ h

theorem State.lt_of_blockCount_pos (h : 0 < s.blockCount l) : l < s.pmCount.length := by
  by_contra hl
  rw [State.blockCount, List.getD_eq_default _ _ (Nat.le_of_not_lt hl)] at h
  exact Nat.lt_irrefl 0 h

theorem State.blockCount_setBlockCount_self (h : l < s.pmCount.length) (n : Nat) :
    (s.setBlockCount l n).blockCount l = n := by
  rw [State.blockCount_of_lt (by simpa using h)]
  simp

theorem State.setBlockCount_setBlockCount (s : State) (l m n : Nat) :
    (s.setBlockCount l m).setBlockCount l n = s.setBlockCount l n := by
  simp [State.setBlockCount]

theorem State.setBlockCount_blockCount (h : l < s.pmCount.length) : s.setBlockCount l (s.blockCount l) = s := by
  simp [State.setBlockCount, State.blockCount_of_lt h]

theorem State.blockLevel_of_lt (h : s.blockCount l < s.cfg.pmBlockBound) :
    s.blockLevel l = .done (s.setBlockCount l (s.blockCount l + 1)) :=
  if_neg (Nat.not_lt.2 h)

theorem State.blockLevel_of_ge (h : s.cfg.pmBlockBound ≤ s.blockCount l) : s.blockLevel l = imbalance l :=
  if_pos (Nat.lt_succ_of_le h)

theorem State.unblockLevel_of_pos (h : 0 < s.blockCount l) :
    s.unblockLevel l = .done (s.setBlockCount l (s.blockCount l - 1)) :=
  if_neg h.ne'

theorem State.blockLevel_eq_done_iff :
    s.blockLevel l = .done t ↔ s.blockCount l < s.cfg.pmBlockBound ∧ t = s.setBlockCount l (s.blockCount l + 1) := by
  obtain h | h := Nat.lt_or_ge (s.blockCount l) s.cfg.pmBlockBound
  · simp [State.blockLevel_of_lt h, h, eq_comm]
  · simp [State.blockLevel_of_ge h, imbalance, h.not_gt]

/-- R274: an unblock takes back the block before it. -/
theorem State.unblockLevel_of_blockLevel (hl : l < s.pmCount.length) (h : s.blockLevel l = .done t) :
    t.unblockLevel l = .done s := by
  obtain ⟨-, rfl⟩ := State.blockLevel_eq_done_iff.1 h
  have hcount := State.blockCount_setBlockCount_self hl (s.blockCount l + 1)
  rw [State.unblockLevel_of_pos (by rw [hcount]; exact Nat.succ_pos _), hcount, Nat.add_sub_cancel,
    State.setBlockCount_setBlockCount, State.setBlockCount_blockCount hl]

/-! ### The deepest level allowed (R274) -/

theorem State.deepestAllowed_of_least (hl : 0 < s.blockCount l) (hleast : ∀ k < l, s.blockCount k = 0) :
    s.deepestAllowed = l := by
  have hlen := State.lt_of_blockCount_pos hl
  have hfind : s.pmCount.findIdx? (fun n => decide (n > 0)) = some l := by
    refine List.findIdx?_eq_some_iff_getElem.2 ⟨hlen, ?_, fun k hk => ?_⟩
    · simpa [← State.blockCount_of_lt hlen] using hl
    · simpa [← State.blockCount_of_lt (hk.trans hlen)] using hleast k hk
  rw [State.deepestAllowed, hfind, Option.getD_some]

theorem State.deepestAllowed_of_none_blocked (h : ∀ l, s.blockCount l = 0) :
    s.deepestAllowed = s.cfg.pmLevels - 1 := by
  have hfind : s.pmCount.findIdx? (fun n => decide (n > 0)) = none := by
    refine List.findIdx?_eq_none_iff.2 fun n hn => ?_
    obtain ⟨l, hl, rfl⟩ := List.getElem_of_mem hn
    simpa [← State.blockCount_of_lt hl] using h l
  rw [State.deepestAllowed, hfind, Option.getD_none]

end Arbiter

/-- Settles O55: the least of the blocked levels, none blocked, and an unblock that restores the whole state. -/
theorem deepestAllowedIsTheLeastBlockedLevel : Obligations.DeepestAllowedIsTheLeastBlockedLevel := by
  intro s
  refine ⟨fun hblocked => ?_, State.deepestAllowed_of_none_blocked,
    fun l t hl ht => ⟨s, State.unblockLevel_of_blockLevel hl ht, rfl⟩⟩
  have hpos := Nat.find_spec hblocked
  have hleast : ∀ k < Nat.find hblocked, s.blockCount k = 0 := fun k hk =>
    Nat.eq_zero_of_not_pos (Nat.find_min hblocked hk)
  rw [State.deepestAllowed_of_least hpos hleast]
  exact ⟨hpos, hleast⟩

end Sys2Proof.Machine

/-! PROOFS. The encoding (30_encoding.md): the words of each format, the format decoder of each operation, the round
trip in both directions, the opcode map, and the words that decode to nothing. -/

namespace Sys2Proof

/-! ### A word of each format, by its fields -/

/-- R82. -/
theorem eq_formatN_iff (w : Word) (op : Byte) :
    w = op ++ 0#24 ↔ w.extractLsb' 24 8 = op ∧ w.extractLsb' 0 24 = 0 := by
  have hw := w.isLt
  simp only [BitVec.toNat_eq, toNat_field, fieldsN, BitVec.ofNat_eq_ofNat, BitVec.toNat_ofNat]
  omega

/-- R83, and the first word of R86. -/
theorem eq_formatB_iff (w : Word) (op b : Byte) : w = op ++ 0#16 ++ b ↔
    w.extractLsb' 24 8 = op ∧ w.extractLsb' 8 16 = 0 ∧ w.extractLsb' 0 8 = b := by
  have hw := w.isLt
  have hb := b.isLt
  simp only [BitVec.toNat_eq, toNat_field, fieldsB, BitVec.ofNat_eq_ofNat, BitVec.toNat_ofNat]
  omega

/-- R84. -/
theorem eq_formatP_iff (w : Word) (op : Byte) (t : Bool) : w = op ++ 0#23 ++ BitVec.ofBool t ↔
    w.extractLsb' 24 8 = op ∧ w.extractLsb' 1 23 = 0 ∧ w.getLsbD 0 = t := by
  have hw := w.isLt
  have hbit : w.getLsbD 0 = t ↔ w.toNat % 2 = t.toNat := by
    rw [← BitVec.testBit_toNat, Nat.testBit_zero]
    cases t <;> simp
  have ht : t.toNat < 2 := t.toNat_lt
  rw [hbit]
  simp only [BitVec.toNat_eq, toNat_field, fieldsP, BitVec.ofNat_eq_ofNat, BitVec.toNat_ofNat]
  omega

/-- R85. -/
theorem eq_formatS_iff (w : Word) (op : Byte) (addr : BitVec 7) (cmd : Byte) (evt : BitVec 5) :
    w = op ++ 0#1 ++ addr ++ cmd ++ 0#3 ++ evt ↔
      w.extractLsb' 24 8 = op ∧ (w.extractLsb' 23 1 = 0 ∧ w.extractLsb' 5 3 = 0) ∧
        w.extractLsb' 16 7 = addr ∧ w.extractLsb' 8 8 = cmd ∧ w.extractLsb' 0 5 = evt := by
  have hw := w.isLt
  have haddr := addr.isLt
  have hcmd := cmd.isLt
  have hevt := evt.isLt
  simp only [BitVec.toNat_eq, toNat_field, fieldsS, BitVec.ofNat_eq_ofNat, BitVec.toNat_ofNat]
  omega

/-! ### Payload words (R86) -/

theorem packBytes_length (bs : List Byte) : (packBytes bs).length = payloadLength bs.length := by
  induction bs using packBytes.induct with
  | case1 => rfl
  | case2 | case3 | case4 => simp [packBytes, payloadLength]
  | case5 b0 b1 b2 b3 rest ih =>
    rw [packBytes, List.length_cons, ih]
    simp only [payloadLength, List.length_cons]
    omega

/-- Byte `k` of some payload words is in word `k / 4`, at position `k % 4` of it. -/
theorem getElem?_flatMap_payloadBytes (ws : List Word) (k : Nat) :
    (ws.flatMap payloadBytes)[k]? = ws[k / 4]?.map fun w => w.extractLsb' (8 * (k % 4)) 8 := by
  induction ws generalizing k with
  | nil => rfl
  | cons w ws ih =>
    rw [List.flatMap_cons]
    match k with
    | 0 | 1 | 2 | 3 => rfl
    | k + 4 =>
      rw [List.getElem?_append_right (by rw [payloadBytes_length]; omega), payloadBytes_length, Nat.add_sub_cancel, ih,
        Nat.add_div_right k (by decide), Nat.add_mod_right]
      rfl

theorem flatMap_payloadBytes_length (ws : List Word) : (ws.flatMap payloadBytes).length = 4 * ws.length := by
  simp [List.length_flatMap, payloadBytes_length, Nat.mul_comm]

/-- Packing the bytes of some words gives the words back. -/
theorem packBytes_flatMap_payloadBytes (ws : List Word) : packBytes (ws.flatMap payloadBytes) = ws := by
  induction ws with
  | nil => rfl
  | cons w ws ih => exact congrArg₂ List.cons (word_payloadBytes w) ih

/-- The words a string packs into are those that unpack to the string and then zeros. -/
theorem eq_packBytes_iff (ws : List Word) (bs : List Byte) : ws = packBytes bs ↔
    ws.length = payloadLength bs.length ∧ ∃ pad, ws.flatMap payloadBytes = bs ++ pad ∧ ∀ b ∈ pad, b = 0 := by
  constructor
  · rintro rfl
    exact ⟨packBytes_length bs, unpack_packBytes bs⟩
  · rintro ⟨hlen, pad, hunpack, hzero⟩
    obtain ⟨pad', hunpack', hzero'⟩ := unpack_packBytes bs
    have hpad : pad.length = pad'.length := by
      have h := congrArg List.length hunpack
      have h' := congrArg List.length hunpack'
      rw [flatMap_payloadBytes_length, List.length_append] at h h'
      rw [packBytes_length] at h'
      omega
    rw [← packBytes_flatMap_payloadBytes ws, ← packBytes_flatMap_payloadBytes (packBytes bs), hunpack, hunpack',
      List.eq_replicate_of_mem hzero, List.eq_replicate_of_mem hzero', hpad]

/-! ### What each format decoder reads -/

section Formats

variable {w : Word} {rest rest' : List Word} {j : Instr}

/-- R82. -/
theorem decodeFormatN_eq_op_iff {i : Instr} :
    decodeFormatN i w rest = .op j rest' ↔ w.extractLsb' 0 24 = 0 ∧ j = i ∧ rest = rest' := by
  rw [decodeFormatN]
  split <;> simp only [*, illegalWord, Decoded.op.injEq, reduceCtorEq, true_and, false_and, eq_comm (a := j)]

/-- R83. -/
theorem decodeFormatB_eq_op_iff {i : Byte → Instr} :
    decodeFormatB i w rest = .op j rest' ↔
      w.extractLsb' 8 16 = 0 ∧ j = i (w.extractLsb' 0 8) ∧ rest = rest' := by
  rw [decodeFormatB]
  split <;> simp only [*, illegalWord, Decoded.op.injEq, reduceCtorEq, true_and, false_and, eq_comm (a := j)]

/-- R84. -/
theorem decodeFormatP_eq_op_iff {i : Bool → Instr} :
    decodeFormatP i w rest = .op j rest' ↔ w.extractLsb' 1 23 = 0 ∧ j = i (w.getLsbD 0) ∧ rest = rest' := by
  rw [decodeFormatP]
  split <;> simp only [*, illegalWord, Decoded.op.injEq, reduceCtorEq, true_and, false_and, eq_comm (a := j)]

/-- R85. -/
theorem decodeFormatS_eq_op_iff {i : BitVec 7 → Byte → BitVec 5 → Word → Instr} :
    decodeFormatS i w rest = .op j rest' ↔
      (w.extractLsb' 23 1 = 0 ∧ w.extractLsb' 5 3 = 0) ∧ ∃ dest,
        j = i (w.extractLsb' 16 7) (w.extractLsb' 8 8) (w.extractLsb' 0 5) dest ∧ rest = dest :: rest' := by
  unfold decodeFormatS
  split
  · cases rest <;> simp [*, eq_comm (a := j), -BitVec.ofNat_eq_ofNat]
  · simp only [*, illegalWord, reduceCtorEq, false_and]

/-- R86, R89. -/
theorem decodeFormatL_eq_op_iff {i : List Byte → Instr} :
    decodeFormatL i w rest = .op j rest' ↔
      w.extractLsb' 8 16 = 0 ∧ ∃ bytes, bytes.length = (w.extractLsb' 0 8).toNat ∧ j = i bytes ∧
        rest = packBytes bytes ++ rest' := by
  by_cases hw : w.extractLsb' 8 16 = 0
  · rw [decodeFormatL, if_pos hw, and_iff_right hw]
    generalize (w.extractLsb' 0 8).toNat = L
    constructor
    · intro h
      simp only [illegalWord] at h
      split_ifs at h with hlen hpad
      cases h
      have hwords : (rest.take (payloadLength L)).length = payloadLength L := List.length_take_of_le (Nat.not_lt.1 hlen)
      have hbytes := flatMap_payloadBytes_length (rest.take (payloadLength L))
      have hL : (((rest.take (payloadLength L)).flatMap payloadBytes).take L).length = L := by
        rw [List.length_take_of_le]
        rw [hbytes, hwords, payloadLength]
        omega
      refine ⟨_, hL, rfl, ?_⟩
      rw [← (eq_packBytes_iff _ _).2 ⟨hwords.trans (by rw [hL]), _, (List.take_append_drop L _).symm, ?_⟩,
        List.take_append_drop]
      simpa using hpad
    · rintro ⟨bytes, rfl, rfl, rfl⟩
      obtain ⟨pad, hunpack, hzero⟩ := unpack_packBytes bytes
      have hlen : ¬ (packBytes bytes ++ rest').length < (packBytes bytes).length := by simp
      simp only [← packBytes_length, if_neg hlen, List.take_left, List.drop_left, hunpack]
      exact if_pos (List.all_eq_true.2 fun b hb => beq_iff_eq.2 (hzero b hb))
  · rw [decodeFormatL, if_neg hw, illegalWord]
    exact iff_of_false nofun fun h => hw h.1

end Formats

/-! ### The opcode map as a function of the operation (R87) -/

/-- The format decoder in an operation's row. -/
def Instr.decodeFormat : Instr → Word → List Word → Decoded
  | .busStart _ _ _ _ => decodeFormatS .busStart
  | .serStart _ => decodeFormatL .serStart
  | .ringPush _ => decodeFormatL .ringPush
  | .ringPop _ => decodeFormatP .ringPop
  | .busData _ => decodeFormatB .busData
  | .rxByte _ => decodeFormatB .rxByte
  | .rxLine _ => decodeFormatB .rxLine
  | i => decodeFormatN i

theorem decodeOpcode_of_opcode {w : Word} (i : Instr) (h : w.extractLsb' 24 8 = i.opcode) (rest : List Word) :
    decodeOpcode w rest = i.decodeFormat w rest := by
  cases i <;> rw [decodeOpcode, h] <;> rfl

/-- R90: an opcode of no operation is illegal. -/
theorem decodeOpcode_cases (w : Word) (rest : List Word) :
    (∃ i : Instr, w.extractLsb' 24 8 = i.opcode) ∨ decodeOpcode w rest = illegalWord w rest := by
  unfold decodeOpcode
  split
  case h_1 h => exact .inl ⟨.busStart 0 0 0 0, BitVec.eq_of_toNat_eq h⟩
  case h_2 h => exact .inl ⟨.serStart [], BitVec.eq_of_toNat_eq h⟩
  case h_3 h => exact .inl ⟨.ringPush [], BitVec.eq_of_toNat_eq h⟩
  case h_4 h => exact .inl ⟨.ringPop false, BitVec.eq_of_toNat_eq h⟩
  case h_5 h => exact .inl ⟨.ringSpace, BitVec.eq_of_toNat_eq h⟩
  case h_6 h => exact .inl ⟨.ringOccupied, BitVec.eq_of_toNat_eq h⟩
  case h_7 h => exact .inl ⟨.rxText, BitVec.eq_of_toNat_eq h⟩
  case h_8 h => exact .inl ⟨.busAck, BitVec.eq_of_toNat_eq h⟩
  case h_9 h => exact .inl ⟨.busNack, BitVec.eq_of_toNat_eq h⟩
  case h_10 h => exact .inl ⟨.busData 0, BitVec.eq_of_toNat_eq h⟩
  case h_11 h => exact .inl ⟨.busStop, BitVec.eq_of_toNat_eq h⟩
  case h_12 h => exact .inl ⟨.txByteReady, BitVec.eq_of_toNat_eq h⟩
  case h_13 h => exact .inl ⟨.txComplete, BitVec.eq_of_toNat_eq h⟩
  case h_14 h => exact .inl ⟨.rxStartFrame, BitVec.eq_of_toNat_eq h⟩
  case h_15 h => exact .inl ⟨.rxByte 0, BitVec.eq_of_toNat_eq h⟩
  case h_16 h => exact .inl ⟨.rxEndFrame, BitVec.eq_of_toNat_eq h⟩
  case h_17 h => exact .inl ⟨.rxLine 0, BitVec.eq_of_toNat_eq h⟩
  case h_18 => exact .inr rfl

/-- What an operation's format decoder reads is the row's operation, with some operands. -/
theorem Instr.opcode_of_decodeFormat {i j : Instr} {w : Word} {rest rest' : List Word}
    (h : i.decodeFormat w rest = .op j rest') : j.opcode = i.opcode := by
  cases i with
  | busStart =>
    obtain ⟨-, dest, rfl, -⟩ := decodeFormatS_eq_op_iff.1 h
    rfl
  | serStart | ringPush =>
    obtain ⟨-, bytes, -, rfl, -⟩ := decodeFormatL_eq_op_iff.1 h
    rfl
  | ringPop =>
    obtain ⟨-, rfl, -⟩ := decodeFormatP_eq_op_iff.1 h
    rfl
  | busData | rxByte | rxLine =>
    obtain ⟨-, rfl, -⟩ := decodeFormatB_eq_op_iff.1 h
    rfl
  | _ =>
    obtain ⟨-, rfl, -⟩ := decodeFormatN_eq_op_iff.1 h
    rfl

/-! ### The round trip -/

/-- With its own opcode in the first word, an operation is read from its encoding and from no other words. -/
theorem Instr.decodeFormat_eq_op_iff {i : Instr} {w : Word} {rest rest' : List Word}
    (hop : w.extractLsb' 24 8 = i.opcode) :
    i.decodeFormat w rest = .op i rest' ↔ i.wellFormed = true ∧ w :: rest = encode i ++ rest' := by
  cases i with
  | busStart addr cmd evt dest =>
    refine decodeFormatS_eq_op_iff.trans ?_
    simp only [encode, encodeFormatS, List.cons_append, List.nil_append, List.cons.injEq, eq_formatS_iff, hop,
      Instr.wellFormed, Instr.busStart.injEq, true_and]
    constructor
    · rintro ⟨hzero, _, ⟨rfl, rfl, rfl, rfl⟩, hrest⟩
      exact ⟨⟨hzero, rfl, rfl, rfl⟩, hrest⟩
    · rintro ⟨⟨hzero, rfl, rfl, rfl⟩, hrest⟩
      exact ⟨hzero, dest, ⟨rfl, rfl, rfl, rfl⟩, hrest⟩
  | serStart bytes | ringPush bytes =>
    refine decodeFormatL_eq_op_iff.trans ?_
    simp only [encode, encodeFormatL, List.cons_append, List.cons.injEq, eq_formatB_iff, hop, Instr.wellFormed,
      Instr.serStart.injEq, Instr.ringPush.injEq, decide_eq_true_eq, true_and]
    constructor
    · rintro ⟨hzero, bytes, hlen, rfl, hrest⟩
      have hlt := (w.extractLsb' 0 8).isLt
      exact ⟨by omega, ⟨hzero, by rw [hlen, BitVec.ofNat_toNat, BitVec.setWidth_eq]⟩, hrest⟩
    · rintro ⟨hwf, ⟨hzero, hlen⟩, hrest⟩
      exact ⟨hzero, bytes, by rw [hlen, BitVec.toNat_ofNat, Nat.mod_eq_of_lt (by omega)], rfl, hrest⟩
  | ringPop t =>
    refine decodeFormatP_eq_op_iff.trans ?_
    simp only [encode, encodeFormatP, List.cons_append, List.nil_append, List.cons.injEq, eq_formatP_iff, hop,
      Instr.wellFormed, Instr.ringPop.injEq]
    tauto
  | busData b | rxByte b | rxLine b =>
    refine decodeFormatB_eq_op_iff.trans ?_
    simp only [encode, encodeFormatB, List.cons_append, List.nil_append, List.cons.injEq, eq_formatB_iff, hop,
      Instr.wellFormed, Instr.busData.injEq, Instr.rxByte.injEq, Instr.rxLine.injEq]
    tauto
  | _ =>
    refine decodeFormatN_eq_op_iff.trans ?_
    simp only [encode, encodeFormatN, List.cons_append, List.nil_append, List.cons.injEq, eq_formatN_iff, hop,
      Instr.wellFormed]
    tauto

/-- R81, R87: every operation's first word carries its opcode and the class of its port. -/
theorem encode_firstWord (i : Instr) : Laws.FirstWord.Statement i := by
  cases i with
  | busStart addr cmd evt dest => exact Laws.FirstWord.busStart addr cmd evt dest
  | serStart text => exact Laws.FirstWord.serStart text
  | ringPush msg => exact Laws.FirstWord.ringPush msg
  | ringPop t => exact Laws.FirstWord.ringPop t
  | ringSpace => exact Laws.FirstWord.ringSpace
  | ringOccupied => exact Laws.FirstWord.ringOccupied
  | rxText => exact Laws.FirstWord.rxText
  | busAck => exact Laws.FirstWord.busAck
  | busNack => exact Laws.FirstWord.busNack
  | busData b => exact Laws.FirstWord.busData b
  | busStop => exact Laws.FirstWord.busStop
  | txByteReady => exact Laws.FirstWord.txByteReady
  | txComplete => exact Laws.FirstWord.txComplete
  | rxStartFrame => exact Laws.FirstWord.rxStartFrame
  | rxByte b => exact Laws.FirstWord.rxByte b
  | rxEndFrame => exact Laws.FirstWord.rxEndFrame
  | rxLine b => exact Laws.FirstWord.rxLine b

/-- R81: a word of a port's class with an operation's opcode is of the operation's own port. -/
theorem port_of_class_of_opcode {w : Word} {p : Port} {i : Instr} (hclass : w.extractLsb' 28 4 = p.classNibble)
    (hop : w.extractLsb' 24 8 = i.opcode) : i.port = p := by
  have hnibble : i.port.classNibble.toNat = p.classNibble.toNat := by
    rw [← Laws.opcode_class, ← hop, ← hclass, toNat_field, toNat_field]
    have := w.isLt
    omega
  cases p <;> cases hi : i.port <;> simp [hi, Port.classNibble] at hnibble ⊢

/-- A word with an operation's opcode is read on the operation's port by its format decoder. -/
theorem decode_of_opcode {w : Word} (i : Instr) (hop : w.extractLsb' 24 8 = i.opcode) (rest : List Word) :
    decode i.port (w :: rest) = i.decodeFormat w rest := by
  have hclass : w.extractLsb' 28 4 = i.port.classNibble := by
    refine BitVec.eq_of_toNat_eq ?_
    rw [← Laws.opcode_class, ← hop, toNat_field, toNat_field]
    have := w.isLt
    omega
  rw [decode, if_pos hclass, decodeOpcode_of_opcode i hop]

/-- The decoder of a port reads an operation exactly from its encoding, the operation well formed and of that port. -/
theorem decode_eq_op_iff {p : Port} {ws rest : List Word} {i : Instr} :
    decode p ws = .op i rest ↔ i.wellFormed = true ∧ i.port = p ∧ ws = encode i ++ rest := by
  constructor
  · intro h
    cases ws with
    | nil => cases h
    | cons w ws =>
      rw [decode] at h
      split at h
      · rename_i hclass
        obtain ⟨j, hj⟩ | hillegal := decodeOpcode_cases w ws
        · have hop : w.extractLsb' 24 8 = i.opcode := by
            rw [hj, ← Instr.opcode_of_decodeFormat ((decodeOpcode_of_opcode j hj ws).symm.trans h)]
          obtain ⟨hwf, hws⟩ := (Instr.decodeFormat_eq_op_iff hop).1 ((decodeOpcode_of_opcode i hop ws).symm.trans h)
          exact ⟨hwf, port_of_class_of_opcode hclass hop, hws⟩
        · rw [hillegal] at h
          cases h
      · cases h
  · rintro ⟨hwf, rfl, rfl⟩
    obtain ⟨w, ws, he, hop, -⟩ := encode_firstWord i
    rw [he, List.cons_append, decode_of_opcode i hop, Instr.decodeFormat_eq_op_iff hop, he]
    exact ⟨hwf, rfl⟩

/-- Settles O1: the round trip read from the encoding to the operation. -/
theorem decodeReadsBackEncode : Obligations.DecodeReadsBackEncode := fun _ _ hwf =>
  decode_eq_op_iff.2 ⟨hwf, rfl, rfl⟩

/-- Settles O2: the round trip read from the operation to the words. -/
theorem decodedWordsAreTheEncoding : Obligations.DecodedWordsAreTheEncoding := fun _ _ _ _ =>
  decode_eq_op_iff.1

end Sys2Proof

/-! PROOFS. Which words the rows of the opcode map select (30_encoding.md R87), and the words that decode to nothing
(R88, R89). -/

namespace Sys2Proof

/-! ### Lengths and payload bytes -/

/-- Settles O3, format by format. -/
theorem encodedLengthFollowsFormat : Obligations.EncodedLengthFollowsFormat := by
  intro i
  cases i with
  | serStart bytes | ringPush bytes =>
    rw [encode, encodeFormatL, List.length_cons, packBytes_length, Nat.add_comm]
    rfl
  | _ => rfl

/-- Settles O4: the words unpack to the string and zeros. -/
theorem payloadBytesPackedLeastSignificantFirst : Obligations.PayloadBytesPackedLeastSignificantFirst := by
  intro bs
  refine ⟨packBytes_length bs, fun k hk => ?_⟩
  obtain ⟨pad, hunpack, hzero⟩ := unpack_packBytes bs
  have hbyte := getElem?_flatMap_payloadBytes (packBytes bs) k
  have hin : k / 4 < (packBytes bs).length := Nat.div_lt_of_lt_mul hk
  rw [List.getElem?_eq_getElem hin, hunpack, Option.map_some] at hbyte
  rw [List.getD_eq_getElem _ _ hin, ← Option.some_inj, ← hbyte, List.getD_eq_getElem?_getD]
  obtain hkb | hkb := Nat.lt_or_ge k bs.length
  · rw [List.getElem?_append_left hkb, List.getElem?_eq_getElem hkb]
    rfl
  · rw [List.getElem?_append_right hkb] at hbyte ⊢
    rw [List.getElem?_eq_none hkb, hbyte]
    exact congrArg some (hzero _ (List.mem_of_getElem? hbyte))

/-- Settles O8 by reading the words. -/
theorem sampleWordsDecode : Obligations.SampleWordsDecode := by
  unfold Obligations.SampleWordsDecode
  decide

/-! ### The rows of the opcode map -/

/-- The five formats of R82 to R86. -/
inductive Format where
  | formatN
  | formatB
  | formatP
  | formatS
  | formatL

/-- The format in an operation's row of R87. -/
def Instr.format : Instr → Format
  | .busStart _ _ _ _ => .formatS
  | .serStart _ | .ringPush _ => .formatL
  | .ringPop _ => .formatP
  | .busData _ | .rxByte _ | .rxLine _ => .formatB
  | .ringSpace | .ringOccupied | .rxText | .busAck | .busNack | .busStop | .txByteReady | .txComplete
  | .rxStartFrame | .rxEndFrame => .formatN

/-- The bits a format reserves, as the masks of R87 hold them below the opcode byte. -/
def Format.reservedBits : Format → BitVec 24
  | .formatN => 0xFFFFFF
  | .formatB | .formatL => 0xFFFF00
  | .formatP => 0xFFFFFE
  | .formatS => 0x8000E0

/-- The reserved bits of a word are 0, as the format's decoder asks. -/
def Format.reservedZero (w : Word) : Format → Prop
  | .formatN => w.extractLsb' 0 24 = 0
  | .formatB | .formatL => w.extractLsb' 8 16 = 0
  | .formatP => w.extractLsb' 1 23 = 0
  | .formatS => w.extractLsb' 23 1 = 0 ∧ w.extractLsb' 5 3 = 0

/-- A field is 0 when its bits are. -/
theorem field_eq_zero_iff_bits (w : Word) (lo len : Nat) :
    w.extractLsb' lo len = 0 ↔ ∀ k, lo ≤ k → k < lo + len → w.getLsbD k = false := by
  have hbits : w.extractLsb' lo len = 0 ↔ ∀ k < len, w.getLsbD (lo + k) = false := by
    simp [BitVec.eq_of_getLsbD_eq_iff]
  rw [hbits]
  refine ⟨fun h k hlo hk => ?_, fun h k hk => h _ (by omega) (by omega)⟩
  rw [← Nat.add_sub_cancel' hlo]
  exact h _ (by omega)

/-- A mask of the low 24 bits keeps nothing of a word when the word's bits at its bits are 0. -/
theorem and_mask_eq_zero_iff_bits (w : Word) (m : BitVec 24) :
    w.extractLsb' 0 24 &&& m = 0 ↔ ∀ k < 24, m.getLsbD k = true → w.getLsbD k = false := by
  have hbits : w.extractLsb' 0 24 &&& m = 0 ↔ ∀ k < 24, w.getLsbD k = true → m.getLsbD k = false := by
    simp [BitVec.eq_of_getLsbD_eq_iff]
  rw [hbits]
  exact forall₂_congr fun k _ => by cases w.getLsbD k <;> cases m.getLsbD k <;> simp

/-- The masks of R87 select the fields the formats reserve. -/
theorem Format.and_reservedBits_eq_zero_iff (f : Format) (w : Word) :
    w.extractLsb' 0 24 &&& f.reservedBits = 0 ↔ f.reservedZero w := by
  rw [and_mask_eq_zero_iff_bits]
  cases f <;> simp only [Format.reservedBits, Format.reservedZero, field_eq_zero_iff_bits]
  case formatN =>
    have hmask : ∀ k < 24, (0xFFFFFF : BitVec 24).getLsbD k = true := by decide
    exact ⟨fun h k _ hk => h k hk (hmask k hk), fun h k hk _ => h k (Nat.zero_le k) hk⟩
  case formatB | formatL =>
    have hmask : ∀ k < 24, (0xFFFF00 : BitVec 24).getLsbD k = true ↔ 8 ≤ k := by decide
    exact ⟨fun h k hlo hk => h k hk ((hmask k hk).2 hlo), fun h k hk hm => h k ((hmask k hk).1 hm) hk⟩
  case formatP =>
    have hmask : ∀ k < 24, (0xFFFFFE : BitVec 24).getLsbD k = true ↔ 1 ≤ k := by decide
    exact ⟨fun h k hlo hk => h k hk ((hmask k hk).2 hlo), fun h k hk hm => h k ((hmask k hk).1 hm) hk⟩
  case formatS =>
    have hmask : ∀ k < 24, (0x8000E0 : BitVec 24).getLsbD k = true ↔ 23 ≤ k ∨ 5 ≤ k ∧ k < 8 := by decide
    constructor
    · intro h
      exact ⟨fun k hlo hk => h k hk ((hmask k hk).2 (.inl hlo)),
        fun k hlo hk => h k (by omega) ((hmask k (by omega)).2 (.inr ⟨hlo, hk⟩))⟩
    · rintro ⟨htop, hlow⟩ k hk hm
      obtain hlo | ⟨hlo, hhi⟩ := (hmask k hk).1 hm
      · exact htop k hlo hk
      · exact hlow k hlo hhi

/-- An operation's row of R87. -/
def Instr.row (i : Instr) : OpcodeRow :=
  ⟨i.mnemonic, i.port, i.opcode ++ 0#24, 0xFF#8 ++ i.format.reservedBits⟩

/-- The rows stand in the order of the operations. -/
theorem Instr.row_mem (i : Instr) : i.row ∈ opcodeMap := by
  refine List.mem_of_getElem? (i := i.ctorIdx) ?_
  cases i <;> rw [Instr.row, Instr.opcode, Instr.format, Format.reservedBits] <;> rfl

/-- A row selects the words with its opcode byte whose reserved bits are 0. -/
theorem Instr.row_selects_iff (i : Instr) (w : Word) :
    i.row.selects w = true ↔ w.extractLsb' 24 8 = i.opcode ∧ i.format.reservedZero w := by
  rw [Instr.row, OpcodeRow.selects, beq_iff_eq, eq_formatN_iff, BitVec.extractLsb'_and, BitVec.extractLsb'_and,
    BitVec.extractLsb'_append_eq_left, BitVec.extractLsb'_append_eq_right, Format.and_reservedBits_eq_zero_iff]
  exact and_congr_left' (iff_of_eq (congrArg (· = _) (BitVec.and_allOnes)))

/-- A row selects words with the opcode byte of its pattern only. -/
theorem opcode_of_selects {row : OpcodeRow} (h : row ∈ opcodeMap) {w : Word} (hs : row.selects w = true) :
    w.extractLsb' 24 8 = row.pattern.extractLsb' 24 8 := by
  have hmask : ∀ row ∈ opcodeMap, row.mask.extractLsb' 24 8 = BitVec.allOnes 8 := by decide
  rw [← beq_iff_eq.1 hs, BitVec.extractLsb'_and, hmask row h, BitVec.and_allOnes]

/-- No two rows have the same opcode byte. -/
theorem row_eq_of_opcode_eq {r r' : OpcodeRow} (hr : r ∈ opcodeMap) (hr' : r' ∈ opcodeMap)
    (h : r.pattern.extractLsb' 24 8 = r'.pattern.extractLsb' 24 8) : r = r' := by
  have hnodup : (opcodeMap.map fun row => row.pattern.extractLsb' 24 8).Nodup := by decide
  exact List.inj_on_of_nodup_map hnodup hr hr' h

/-- A format decoder takes only words whose reserved bits are 0. -/
theorem Instr.decodeFormat_of_not_reservedZero {i : Instr} {w : Word} (h : ¬ i.format.reservedZero w)
    (rest : List Word) : i.decodeFormat w rest = illegalWord w rest := by
  cases i <;> exact if_neg h

theorem Instr.reservedZero_of_decodeFormat {i j : Instr} {w : Word} {rest rest' : List Word}
    (h : i.decodeFormat w rest = .op j rest') : i.format.reservedZero w := by
  by_contra hn
  rw [Instr.decodeFormat_of_not_reservedZero hn] at h
  cases h

/-- Settles O5: the operation's own row, no other having its opcode byte. -/
theorem decodedWordMatchesItsOneRow : Obligations.DecodedWordMatchesItsOneRow := by
  intro p w rest rest' i h
  obtain ⟨hwf, hport, hwords⟩ := decode_eq_op_iff.1 h
  obtain ⟨v, vs, hv, hop, -⟩ := encode_firstWord i
  obtain rfl : w = v := by
    rw [hv, List.cons_append] at hwords
    exact (List.cons.inj hwords).1
  have hselects : i.row.selects w = true :=
    (i.row_selects_iff w).2
      ⟨hop, Instr.reservedZero_of_decodeFormat ((Instr.decodeFormat_eq_op_iff hop).2 ⟨hwf, hwords⟩)⟩
  refine ⟨i.row, i.row_mem, hselects, hport, rfl, fun other hmem hother => ?_⟩
  exact row_eq_of_opcode_eq hmem i.row_mem
    ((opcode_of_selects hmem hother).symm.trans (opcode_of_selects i.row_mem hselects))

/-! ### Words that decode to nothing -/

/-- R88: a word that no row of a port selects is illegal on it. -/
theorem decode_of_no_row {p : Port} {w : Word} (h : ∀ row ∈ opcodeMap, row.selects w = true → row.port ≠ p)
    (rest : List Word) : decode p (w :: rest) = .illegal (w.extractLsb' 16 16) rest := by
  rw [decode]
  split
  · rename_i hclass
    obtain ⟨i, hop⟩ | hillegal := decodeOpcode_cases w rest
    · rw [decodeOpcode_of_opcode i hop]
      refine Instr.decodeFormat_of_not_reservedZero (fun hzero => ?_) rest
      exact h i.row i.row_mem ((i.row_selects_iff w).2 ⟨hop, hzero⟩) (port_of_class_of_opcode hclass hop)
    · exact hillegal
  · rfl

/-- R89: a payload byte past the string's end that is not 0 makes the operation illegal, once it is presented whole. -/
theorem decodeFormatL_of_padding {i : List Byte → Instr} {w : Word} {rest : List Word} {k : Nat}
    (hzero : w.extractLsb' 8 16 = 0) (hlen : payloadLength (w.extractLsb' 0 8).toNat ≤ rest.length)
    (hk : (w.extractLsb' 0 8).toNat ≤ k) (hk' : k < 4 * payloadLength (w.extractLsb' 0 8).toNat)
    (hbyte : (rest.getD (k / 4) 0).extractLsb' (8 * (k % 4)) 8 ≠ 0) :
    decodeFormatL i w rest =
      .illegal (w.extractLsb' 16 16) (rest.drop (payloadLength (w.extractLsb' 0 8).toNat)) := by
  rw [decodeFormatL, if_pos hzero]
  generalize (w.extractLsb' 0 8).toNat = L at *
  have hin : k / 4 < payloadLength L := Nat.div_lt_of_lt_mul hk'
  have hget : ((rest.take (payloadLength L)).flatMap payloadBytes)[k]? =
      some ((rest.getD (k / 4) 0).extractLsb' (8 * (k % 4)) 8) := by
    rw [getElem?_flatMap_payloadBytes, List.getElem?_take_of_lt hin, List.getElem?_eq_getElem (hin.trans_le hlen),
      List.getD_eq_getElem _ _ (hin.trans_le hlen), Option.map_some]
  have hmem : (rest.getD (k / 4) 0).extractLsb' (8 * (k % 4)) 8 ∈
      ((rest.take (payloadLength L)).flatMap payloadBytes).drop L := by
    refine List.mem_of_getElem? (i := k - L) ?_
    rw [List.getElem?_drop, Nat.add_sub_cancel' hk, hget]
  simp only [if_neg hlen.not_gt]
  refine if_neg fun hall => hbyte ?_
  exact beq_iff_eq.1 (List.all_eq_true.1 hall _ hmem)

end Sys2Proof

namespace Sys2Proof.Machine

@[simp] theorem State.portWords_schedule (s : State) (moves : List Move) (p : Port) :
    ({ s with schedule := moves } : State).portWords p = s.portWords p := by
  cases p <;> rfl

/-- R88, R89: the step that meets illegal words writes the fault and takes the words off their port. -/
theorem step_of_illegal {s : State} {p : Port} {moves : List Move} {info : Half} {rest : List Word}
    (hs : s.schedule = .port p :: moves) (hh : s.halted = false) (ha : s.asleep = none)
    (hd : decode p (s.portWords p) = .illegal info rest) :
    step s = .next ((({ s with schedule := moves } : State).halt .illegalOp info).setPort p rest) := by
  rw [step_of_port hs hh ha, State.runPort_of_illegal]
  rwa [State.portWords_schedule]

/-- Settles O6: no row of the port selects the word, so it decodes to nothing. -/
theorem unmatchedWordRaisesIllegalOp : Obligations.UnmatchedWordRaisesIllegalOp := by
  intro s p moves w rest hs hw hh ha hrow
  exact step_of_illegal hs hh ha (by rw [hw, decode_of_no_row hrow])

/-- Settles O7: both operations are of Format L, whose decoder looks at the padding. -/
theorem nonzeroPaddingRaisesIllegalOp : Obligations.NonzeroPaddingRaisesIllegalOp := by
  intro s moves w rest k hs hw hh ha hmatch hlen hk hk' hbyte
  refine step_of_illegal hs hh ha ?_
  rw [State.portWords, hw]
  obtain hmatch | hmatch := hmatch
  · obtain ⟨hop, hzero⟩ := ((Instr.serStart []).row_selects_iff w).1 (beq_iff_eq.2 hmatch)
    exact (decode_of_opcode (.serStart []) hop rest).trans (decodeFormatL_of_padding hzero hlen hk hk' hbyte)
  · obtain ⟨hop, hzero⟩ := ((Instr.ringPush []).row_selects_iff w).1 (beq_iff_eq.2 hmatch)
    exact (decode_of_opcode (.ringPush []) hop rest).trans (decodeFormatL_of_padding hzero hlen hk hk' hbyte)

end Sys2Proof.Machine

/-! PROOFS. The step and the operation in general: halted and ill-formed states, the power cycle and the reset, the
faults (60_exceptions.md R250 to R254), and what no operation changes (10_state.md R43). -/

namespace Sys2Proof.Machine

section General

variable {s t : State}

/-! ### Performing any operation -/

/-- Every operation is its rule's effect, performed. -/
theorem exists_exec_eq_perform (i : Instr) (s : State) : ∃ e, exec i s = s.perform e := by
  cases i <;> exact ⟨_, rfl⟩

theorem exec_of_halted (h : s.halted = true) (i : Instr) : exec i s = .fault .halted := by
  obtain ⟨e, he⟩ := exists_exec_eq_perform i s
  rw [he, State.perform_of_halted h]

theorem State.halted_iff (s : State) : s.halted = true ↔ s.faultCode ≠ 0 := by
  simp [State.halted]

theorem State.faultCode_of_ready (hr : s.ready = true) : s.faultCode = 0 := by
  simpa [State.halted] using (s.ready_iff.1 hr).1

theorem State.wellFormed_of_ready (hr : s.ready = true) : s.wellFormed = true :=
  (s.ready_iff.1 hr).2

theorem State.halted_of_ready (hr : s.ready = true) : s.halted = false :=
  (s.ready_iff.1 hr).1

/-- R253: no move but the power cycle is taken. -/
theorem step_of_halted (h : s.halted = true) (hs : ∀ moves, s.schedule ≠ .powerCycle :: moves) :
    step s = .fault .halted := by
  unfold step State.moveOn
  split
  · rw [if_pos h]
  · rename_i m moves hm
    have hne : m ≠ .powerCycle := by
      rintro rfl
      exact hs moves hm
    rw [if_pos (by simp [h, hne])]

/-- R291: the power cycle is taken also in a halted block. -/
theorem step_of_powerCycle {moves : List Move} (hs : s.schedule = .powerCycle :: moves) :
    step s = .next ({ s with schedule := moves } : State).powerCycle := by
  simp [step, State.moveOn, hs, State.takeMove]

end General

/-- Settles O10: no rule runs, and no move but the power cycle is taken. -/
theorem haltedBlockHasNoStep : Obligations.HaltedBlockHasNoStep := fun s hf =>
  ⟨exec_of_halted (s.halted_iff.2 hf), step_of_halted (s.halted_iff.2 hf)⟩

/-- Settles O14. -/
theorem illFormedStateRefused : Obligations.IllFormedStateRefused := by
  intro i s hf hw
  obtain ⟨e, he⟩ := exists_exec_eq_perform i s
  rw [he, State.perform_of_not_wellFormed (by simp [State.halted, hf]) hw]

/-- Settles O9: the port's move, taken apart into the operation and what `State.settle` does after it. -/
theorem stepPerformsTheDecodedOperation : Obligations.StepPerformsTheDecodedOperation := by
  intro s p moves i rest hs hh ha hd
  rw [step_of_port hs hh ha, State.runPort_of_op (by rwa [State.portWords_schedule])]
  cases p <;> rfl

/-- Settles O11. -/
theorem powerCycleRestoresReset : Obligations.PowerCycleRestoresReset := fun _ _ =>
  step_of_powerCycle

/-- Settles O12: the fields as `State.resetWith` lists them. -/
theorem resetLeavesTheStatedValues : Obligations.ResetLeavesTheStatedValues := fun _ =>
  ⟨rfl, rfl, rfl, rfl, rfl, rfl, rfl, rfl, rfl, rfl, rfl, rfl, rfl, rfl, rfl, rfl, rfl, rfl, rfl,
    fun _ hl => List.getElem?_replicate_of_lt hl⟩

section Reset

variable {c : Config}

theorem State.resetWith_wellFormed (hc : c.valid = true) : (State.resetWith c).wellFormed = true := by
  obtain ⟨hcap, -⟩ := (cfgValid_iff c).1 hc
  have hpos : 0 < c.ringCap := Nat.zero_lt_of_lt (ringCaps_pos hcap).1
  refine (State.wellFormed_iff _).2 ⟨hc, (State.shapeOk_iff _).2 ?_, (State.busOk_iff _).2 nofun,
    (State.txOk_iff _).2 ?_, (State.rxOk_iff _).2 ?_⟩ <;> simp [State.resetWith, hpos]

theorem State.resetWith_ready (hc : c.valid = true) : (State.resetWith c).ready = true :=
  (State.ready_iff _).2 ⟨rfl, State.resetWith_wellFormed hc⟩

theorem State.resetWith_ringQueue (hc : c.valid = true) : (State.resetWith c).ringQueue = some [] :=
  have hr := State.resetWith_ready hc
  (State.ringQueue_nil_iff hr).2 ((State.occ_eq_zero_iff hr).2 rfl)

theorem State.powerPaired_iff (s : State) : s.powerPaired = true ↔
    s.pmCount = (List.range s.cfg.pmLevels).map s.outstanding ∧
      ∀ l < s.cfg.pmLevels, s.outstanding l ≤ s.cfg.pmBlockBound := by
  simp only [State.powerPaired, decide_eq_true_eq]

theorem State.resetWith_powerPaired (c : Config) : (State.resetWith c).powerPaired = true := by
  have hnone : (State.resetWith c).outstanding = fun _ => 0 := rfl
  rw [State.powerPaired_iff, hnone]
  exact ⟨by simp [State.resetWith], fun _ _ => Nat.zero_le _⟩

end Reset

/-- Settles O13. -/
theorem resetMeetsTheInvariants : Obligations.ResetMeetsTheInvariants := fun c hc =>
  ⟨State.resetWith_ready hc, State.resetWith_ringQueue hc, State.resetWith_powerPaired c⟩

section Writers

variable {s t : State} {i : Instr}

/-! ### What an operation may write (R43) -/

theorem State.finishSending_sendByte_eq (s : State) : s.sendByte.finishSending = { s with
    txSent := s.sendByte.finishSending.txSent, txBlIe := s.sendByte.finishSending.txBlIe,
    txCIe := s.sendByte.finishSending.txCIe, txState := s.sendByte.finishSending.txState,
    trace := s.sendByte.finishSending.trace } := by
  unfold State.finishSending State.sendByte
  split <;> split <;> rfl

/-- `s` with the fields that R43's "written by" column lets an operation write, and the model's own marks that it may
set, taken from `t`. -/
def State.written (s : State) (i : Instr) (t : State) : State :=
  match i with
  | .busStart _ _ _ _ => { s with
      busState := t.busState, busAddr := t.busAddr, busCmd := t.busCmd, busDest := t.busDest, busEvt := t.busEvt,
      trace := t.trace }
  | .busAck | .busNack | .busStop => { s with busState := t.busState, trace := t.trace }
  | .busData _ => { s with busState := t.busState, busHi := t.busHi, trace := t.trace }
  | .serStart _ => { s with
      txBuf := t.txBuf, txLen := t.txLen, txSent := t.txSent, txBusy := t.txBusy, txState := t.txState,
      txBlIe := t.txBlIe, trace := t.trace, hostHeld := t.hostHeld }
  | .txByteReady => { s with
      txSent := t.txSent, txBlIe := t.txBlIe, txCIe := t.txCIe, txState := t.txState, trace := t.trace }
  | .txComplete => { s with txBusy := t.txBusy, txCIe := t.txCIe, txState := t.txState, trace := t.trace }
  | .rxStartFrame | .rxLine _ => { s with
      rxState := t.rxState, rxBuf := t.rxBuf, rxLen := t.rxLen, rxBlock := t.rxBlock, rxByteIe := t.rxByteIe,
      rxEofIe := t.rxEofIe, rxValid := t.rxValid, trace := t.trace }
  | .rxByte _ => { s with rxBuf := t.rxBuf, rxLen := t.rxLen }
  | .rxEndFrame => { s with
      rxState := t.rxState, rxBuf := t.rxBuf, rxBlock := t.rxBlock, rxByteIe := t.rxByteIe, rxEofIe := t.rxEofIe,
      rxValid := t.rxValid, trace := t.trace }
  | .rxText => { s with trace := t.trace, draws := t.draws }
  | .ringPush _ => { s with ringMem := t.ringMem, ringWr := t.ringWr }
  | .ringPop true => { s with ringRd := t.ringRd, trace := t.trace }
  | .ringPop false => { s with
      ringRd := t.ringRd, txBuf := t.txBuf, txLen := t.txLen, txSent := t.txSent, txBusy := t.txBusy,
      txState := t.txState, txBlIe := t.txBlIe, trace := t.trace }
  | .ringSpace | .ringOccupied => { s with trace := t.trace }

theorem State.written_self (s : State) (i : Instr) : s.written i s = s := by
  cases i with
  | ringPop toTestSink => cases toTestSink <;> rfl
  | _ => rfl

/-- An operation that leaves a state without a fault writes the fields of its row only. -/
theorem Leaves.eq_written (h : Leaves s i t) : t = s.written i t := by
  cases h with
  | sends => exact s.finishSending_sendByte_eq
  | pushes msg => exact s.ringPutAll_eq _
  | discards => exact (s.written_self i).symm
  | popsNothing toTestSink => cases toTestSink <;> rfl
  | beginsFrame i hi | restartsFrame i hi => obtain rfl | rfl := hi <;> rfl
  | appends i b hi => obtain rfl | rfl := hi <;> rfl
  | _ => rfl

theorem State.written_halt (s : State) (i : Instr) (c : FaultCode) (info : Half) : s.written i (s.halt c info) = s := by
  cases i with
  | ringPop toTestSink => cases toTestSink <;> rfl
  | _ => rfl

/-- Every operation writes the fields of its row or, where it faults, the two fault fields. -/
theorem exec_eq_written (h : exec i s = .next t) :
    t = { s.written i t with faultCode := t.faultCode, faultInfo := t.faultInfo } := by
  obtain ⟨-, hl | ⟨c, info, -, rfl⟩⟩ := exec_cases h
  · rw [← hl.eq_written]
  · rw [State.written_halt]
    rfl

/-- What the operations leave alone: the configuration, the environment, the ports and the schedule. -/
structure SameSurroundings (s t : State) : Prop where
  cfg : t.cfg = s.cfg
  eventMask : t.eventMask = s.eventMask
  pmCount : t.pmCount = s.pmCount
  asleep : t.asleep = s.asleep
  hostPort : t.hostPort = s.hostPort
  busPort : t.busPort = s.busPort
  txPort : t.txPort = s.txPort
  rxPort : t.rxPort = s.rxPort
  schedule : t.schedule = s.schedule
  boots : t.boots = s.boots

theorem exec_sameSurroundings (h : exec i s = .next t) : SameSurroundings s t := by
  rw [exec_eq_written h]
  cases i with
  | ringPop toTestSink => cases toTestSink <;> exact ⟨rfl, rfl, rfl, rfl, rfl, rfl, rfl, rfl, rfl, rfl⟩
  | _ => exact ⟨rfl, rfl, rfl, rfl, rfl, rfl, rfl, rfl, rfl, rfl⟩

theorem State.trace_prefix_sendByte (s : State) : s.trace <+: s.sendByte.trace := by
  unfold State.sendByte
  split
  · exact List.prefix_append _ _
  · exact List.prefix_rfl

theorem State.finishSending_trace (s : State) : s.finishSending.trace = s.trace := by
  unfold State.finishSending
  split <;> rfl

/-- R44: the outputs of an operation are appended to the trace. -/
theorem exec_trace_prefix (h : exec i s = .next t) : s.trace <+: t.trace := by
  obtain ⟨-, hl | ⟨c, info, -, rfl⟩⟩ := exec_cases h
  · cases hl with
    | sends => exact s.sendByte.finishSending_trace ▸ s.trace_prefix_sendByte
    | pushes msg => rw [State.ringPutAll_eq]
    | holds | confirmed | discards | beginsFrame | restartsFrame | appends => exact List.prefix_rfl
    | _ => exact List.prefix_append _ _
  · exact List.prefix_rfl

/-- The fault fields are written by a fault only. -/
theorem exec_fault_of_ne (h : exec i s = .next t) (hne : t.faultCode ≠ s.faultCode ∨ t.faultInfo ≠ s.faultInfo) :
    ∃ c info, faultAllowed s i c info ∧ t = { s with faultCode := c.number, faultInfo := info } := by
  obtain ⟨-, hl | ⟨c, info, hf, rfl⟩⟩ := exec_cases h
  · rw [hl.eq_written] at hne
    cases i with
    | ringPop toTestSink => cases toTestSink <;> simp [State.written] at hne
    | _ => simp [State.written] at hne
  · exact ⟨c, info, hf, rfl⟩

end Writers

/-- Settles O16: the fields an operation may write, read column by column. -/
theorem fieldsChangeOnlyByTheirWriters : Obligations.FieldsChangeOnlyByTheirWriters := by
  intro i s t h
  obtain ⟨hcfg, hmask, hcount, hsleep, hhost, hbus, htx, hrx, hsched, hboots⟩ := exec_sameSurroundings h
  have hw := exec_eq_written h
  refine ⟨?_, ?_, ?_, ?_, ?_, ?_, ?_, ?_, ?_, ?_, ?_, ?_, ?_, ?_, ?_, exec_fault_of_ne h, hcfg, hmask, hcount, hsleep,
    hhost, hbus, htx, hrx, hsched, hboots, exec_trace_prefix h⟩
  all_goals
    rw [hw]
    cases i with
    | ringPop toTestSink => cases toTestSink <;> simp [State.written]
    | _ => simp [State.written, Instr.port]

end Sys2Proof.Machine

/-! PROOFS. `SER_START` and `RX_TEXT`, and which operations fault (60_exceptions.md R251). -/

namespace Sys2Proof.Machine

section Operations

variable {s t : State}

/-! ### `SER_START` (R141) -/

theorem exec_serStart (hr : s.ready = true) (text : List Byte) :
    exec (.serStart text) s = (s.startTransmission text).commit s := by
  rw [exec, execSerStart, State.perform_of_ready hr]

/-- R256. -/
theorem exec_serStart_of_busy (hr : s.ready = true) (hb : s.txBusy = true) (text : List Byte) :
    exec (.serStart text) s = .next s.hold := by
  rw [exec_serStart hr, State.startTransmission, if_pos hb, Effect.commit_hold]

theorem exec_serStart_of_term (hr : s.ready = true) {text : List Byte} (hb : s.txBusy = false)
    (ht : s.cfg.term ∈ text) :
    exec (.serStart text) s = .refused .textHasTerm := by
  rw [exec_serStart hr, State.startTransmission, if_neg (by simp [hb]), if_pos ht, Effect.commit_refuse]

theorem exec_serStart_of_long (hr : s.ready = true) {text : List Byte} (hb : s.txBusy = false)
    (ht : s.cfg.term ∉ text) (hl : s.cfg.txBufLen < text.length) :
    exec (.serStart text) s = .next (s.halt .txOverflow (faultInfoOf text.length 0x02)) := by
  rw [exec_serStart hr, State.startTransmission, if_neg (by simp [hb]), if_neg ht, if_pos hl, Effect.commit_raise]

theorem exec_serStart_of_fits (hr : s.ready = true) {text : List Byte} (hb : s.txBusy = false)
    (ht : s.cfg.term ∉ text) (hl : text.length ≤ s.cfg.txBufLen) :
    exec (.serStart text) s =
      .next { s.transmitting text with trace := s.trace ++ [.pmBlock s.cfg.txPmLevel] } := by
  rw [exec_serStart hr, State.startTransmission, if_neg (by simp [hb]), if_neg ht, if_neg hl.not_gt,
    Effect.commit_done]
  rfl

/-! ### `RX_TEXT` (R176) -/

theorem exec_rxText_of_valid (hr : s.ready = true) (hv : s.rxValid = true) (ht : s.cfg.term ∉ s.rxFrame) :
    exec .rxText s = .next { s with trace := s.trace ++ [.result (.text s.rxFrame)] } := by
  rw [exec, execRxText, State.perform_of_ready hr, if_pos (by simp [hv, ht]), Effect.commit_done]
  rfl

theorem exec_rxText_of_invalid (hr : s.ready = true) (h : s.rxValid = false ∨ s.cfg.term ∈ s.rxFrame) :
    exec .rxText s = .next { s with trace := s.trace ++ [.result (.text s.drawnText)], draws := s.draws + 1 } := by
  have hno : ¬ (s.rxValid && !(s.rxFrame.contains s.cfg.term)) = true := by
    obtain h | h := h <;> simp [h]
  rw [exec, execRxText, State.perform_of_ready hr, if_neg hno, Effect.commit_done]
  rfl

/-! ### Faults (R251, R252) -/

/-- An operation faults wherever R251 gives it a cause. -/
theorem exec_of_faultAllowed {i : Instr} {c : FaultCode} {info : Half} (hr : s.ready = true)
    (h : faultAllowed s i c info) : exec i s = .next (s.halt c info) := by
  cases i with
  | busStart addr cmd evt dest =>
    obtain ⟨hb, rfl, rfl⟩ := h
    exact exec_busStart_of_ne_idle hr hb addr cmd evt dest
  | busAck | busNack | busData | busStop =>
    obtain ⟨hb, rfl, rfl⟩ := h
    exact exec_of_not_busTakes hr rfl hb
  | serStart text =>
    obtain ⟨hb, ht, hl, rfl, rfl⟩ := h
    exact exec_serStart_of_long hr hb ht hl
  | ringPush msg =>
    obtain ⟨hl, rfl, rfl⟩ := h
    exact exec_ringPush_of_lt hr hl
  | ringPop toTestSink =>
    obtain ⟨hb, ho, ⟨hbad, rfl, rfl⟩ | ⟨rfl, h0, hle, ht, hl, rfl, rfl⟩⟩ := h
    · exact exec_ringPop_of_corrupt hr hb ho hbad toTestSink
    · obtain ⟨-, hlong, -⟩ := exec_ringPop_false hr hb rfl h0 hle rfl
      simpa using hlong ht (by simpa using hl)
  | rxByte b =>
    obtain ⟨hc, hl, rfl, rfl⟩ := h
    obtain ⟨hb, hi, -⟩ := State.rx_of_collecting (State.rxOk_of_ready hr) hc
    exact exec_rxByte_of_full hr hb hi hl b
  | rxEndFrame =>
    obtain ⟨hc, hl, rfl, rfl⟩ := h
    obtain ⟨-, -, hi⟩ := State.rx_of_collecting (State.rxOk_of_ready hr) hc
    exact exec_rxEndFrame_of_full hr hi hl
  | rxLine b =>
    obtain ⟨hc, hs, rfl, ⟨hl, rfl⟩ | ⟨rfl, hl, rfl⟩⟩ := h
    · exact exec_rxLine_of_full hr hs hc hl
    · exact exec_rxLine_eofMarker_of_full hr hc hl
  | ringSpace | ringOccupied | rxText | txByteReady | txComplete | rxStartFrame => exact h.elim

end Operations

/-- Settles O15: an operation that leaves a ready state has not faulted. -/
theorem faultsArePreciseAndListed : Obligations.FaultsArePreciseAndListed := by
  refine fun i s => ⟨fun t h hf => ?_, fun c info => exec_of_faultAllowed⟩
  obtain ⟨hr, hl | ⟨c, info, hc, rfl⟩⟩ := exec_cases h
  · exact absurd (State.faultCode_of_ready (hl.ready hr)) hf
  · exact ⟨c, info, hc, rfl⟩

/-- Settles O27. -/
theorem serStartCopiesBlocksAndEnables : Obligations.SerStartCopiesBlocksAndEnables := by
  intro text s hr
  refine ⟨rfl, rfl, fun hb => exec_serStart_of_busy hr hb text, exec_serStart_of_term hr, exec_serStart_of_long hr,
    fun hb ht hl => ⟨_, exec_serStart_of_fits hr hb ht hl, fun k => ?_, rfl⟩⟩
  simp [State.transmitting, Memory.get?_setAll]

/-- Settles O38: a drawn text is cut to the buffer's length. -/
theorem rxTextReturnsTheFrameOrADraw : Obligations.RxTextReturnsTheFrameOrADraw := fun s hr =>
  ⟨rfl, rfl, exec_rxText_of_valid hr, fun h =>
    ⟨s.drawnText, List.length_take_le _ _, exec_rxText_of_invalid hr h⟩⟩

end Sys2Proof.Machine

/-! PROOFS. What every step keeps: the well-formed state (10_state.md R39) and whole records
in the ring (R38). -/

namespace Sys2Proof.Machine

section Step

variable {s t u : State}

/-! ### Well-formedness (R39) -/

theorem exec_wellFormed {i : Instr} (h : exec i s = .next t) : t.wellFormed = true := by
  obtain ⟨hr, hl | ⟨c, info, -, rfl⟩⟩ := exec_cases h
  · exact State.wellFormed_of_ready (hl.ready hr)
  · exact (s.halt_wellFormed c info).trans (State.wellFormed_of_ready hr)

theorem State.settle_wellFormed {p : Port} {rest : List Word} (hs : s.wellFormed = true) (hu : u.wellFormed = true)
    (h : s.settle p rest u = .next t) : t.wellFormed = true := by
  obtain ⟨rfl, -⟩ | ⟨rfl, -⟩ | ⟨l, rfl⟩ | ⟨-, mask, counts, -, rfl⟩ := State.settle_cases h
  · exact hu
  · rwa [State.setPort_wellFormed]
  · rwa [State.halt_wellFormed, State.setPort_wellFormed]
  · exact (State.setPort_wellFormed u p rest).trans hu

/-- R290: the power cycle leaves the reset state of the configuration, whatever the ports hold. -/
theorem State.powerCycle_wellFormed (h : s.cfg.valid = true) : s.powerCycle.wellFormed = true :=
  State.resetWith_wellFormed h

end Step

/-- Settles O48: an operation keeps the state well formed, what follows it changes nothing that is read, and the other
moves touch the environment or reset the block. -/
theorem stepKeepsWellFormed : Obligations.StepKeepsWellFormed := by
  intro s t hw h
  obtain ⟨p, i, moves, rest, u, -, -, -, -, hexec, hsettle⟩ | ⟨moves, -, rfl⟩ |
    ⟨moves, c, info, mask, sleep, hostW, busW, txW, rxW, rfl⟩ := step_cases h
  · refine State.settle_wellFormed ?_ (exec_wellFormed hexec) hsettle
    rw [State.beginOperation_wellFormed]
    exact hw
  · exact State.powerCycle_wellFormed ((State.wellFormed_iff s).1 hw).1
  · exact hw

section Records

variable {s t u : State}

/-! ### Whole records (R38) -/

theorem State.recordsFrom_congr (hc : t.cfg = s.cfg) (hread : t.ringRead = s.ringRead) (fuel i n : Nat) :
    t.recordsFrom fuel i n = s.recordsFrom fuel i n := by
  have hnext (j : Nat) : t.ringNext j = s.ringNext j := by simp only [State.ringNext, State.ringMask, hc]
  have hadvance (j k : Nat) : t.ringAdvance j k = s.ringAdvance j k := by
    induction k generalizing j with
    | zero => rfl
    | succ k ih => rw [State.ringAdvance, State.ringAdvance, hnext, ih]
  induction fuel generalizing i n with
  | zero => rfl
  | succ fuel ih =>
    simp only [State.recordsFrom, hread, hnext, hadvance, State.ringReadAll_congr hc hread, ih]

/-- States with the same ring hold the same messages, ready or not. -/
theorem SameRing.ringWhole (h : SameRing s t) (hs : s.ringWhole = true) : t.ringWhole = true := by
  have hread : t.ringRead = s.ringRead := funext fun i => by simp only [State.ringRead, h.ringMem, h.boots]
  have hocc : t.occ = s.occ := by simp only [State.occ, State.ringMask, h.cfg, h.ringRd, h.ringWr]
  rwa [State.ringWhole, State.ringQueue, State.recordsFrom_congr h.cfg hread, hocc, h.ringRd]

theorem State.ringWhole_iff (s : State) : s.ringWhole = true ↔ ∃ q, s.ringQueue = some q :=
  Option.isSome_iff_exists

/-- A record that R212's pop takes is the first of the queue. -/
theorem State.takeRecord_ringWhole (hr : s.ready = true) (hw : s.ringWhole = true) {h : Nat}
    (hh : h = (s.ringRead s.ringRd).toNat) (h0 : 0 < h) (ho : h ≤ s.occ) : (s.takeRecord h).ringWhole = true := by
  obtain ⟨q, hq⟩ := s.ringWhole_iff.1 hw
  cases q with
  | nil =>
    have hempty := (State.ringQueue_nil_iff hr).1 hq
    omega
  | cons m q =>
    obtain ⟨hhead, -, -, hrest⟩ := State.takeRecord_ringQueue hr hq
    rw [hh, hhead]
    exact (State.ringWhole_iff _).2 ⟨q, hrest⟩

/-- A push appends a record, a pop takes one, and nothing else touches the ring. -/
theorem Leaves.ringWhole {i : Instr} (hr : s.ready = true) (hw : s.ringWhole = true) (h : Leaves s i t) :
    t.ringWhole = true := by
  cases h with
  | pushes msg hfit =>
    obtain ⟨q, hq⟩ := s.ringWhole_iff.1 hw
    exact (State.ringWhole_iff _).2 ⟨_, State.ringPutAll_ringQueue hr hq hfit⟩
  | popsToSink h hh h0 ho | popsToTransmitter h _ hh h0 ho =>
    exact SameRing.ringWhole (s := s.takeRecord h) ⟨rfl, rfl, rfl, rfl, rfl⟩
      (State.takeRecord_ringWhole hr hw hh h0 ho)
  | sends => exact (s.sendByte_sameRing.trans s.sendByte.finishSending_sameRing).ringWhole hw
  | _ => exact SameRing.ringWhole (s := s) ⟨rfl, rfl, rfl, rfl, rfl⟩ hw

theorem exec_ringWhole {i : Instr} (hw : s.ringWhole = true) (h : exec i s = .next t) : t.ringWhole = true := by
  obtain ⟨hr, hl | ⟨c, info, -, rfl⟩⟩ := exec_cases h
  · exact hl.ringWhole hr hw
  · exact SameRing.ringWhole (s := s) ⟨rfl, rfl, rfl, rfl, rfl⟩ hw

theorem State.setPort_sameRing (s : State) (p : Port) (ws : List Word) : SameRing s (s.setPort p ws) := by
  cases p <;> exact ⟨rfl, rfl, rfl, rfl, rfl⟩

theorem State.beginOperation_sameRing (s : State) (p : Port) : SameRing s (s.beginOperation p) := by
  cases p <;> exact ⟨rfl, rfl, rfl, rfl, rfl⟩

theorem State.settle_ringWhole {p : Port} {rest : List Word} (hs : s.ringWhole = true) (hu : u.ringWhole = true)
    (h : s.settle p rest u = .next t) : t.ringWhole = true := by
  obtain ⟨rfl, -⟩ | ⟨rfl, -⟩ | ⟨l, rfl⟩ | ⟨-, mask, counts, -, rfl⟩ := State.settle_cases h
  · exact hu
  · exact (u.setPort_sameRing p rest).ringWhole hu
  · exact SameRing.ringWhole (s := s.setPort p rest) ⟨rfl, rfl, rfl, rfl, rfl⟩
      ((s.setPort_sameRing p rest).ringWhole hs)
  · exact SameRing.ringWhole (s := u.setPort p rest) ⟨rfl, rfl, rfl, rfl, rfl⟩
      ((u.setPort_sameRing p rest).ringWhole hu)

/-- The power cycle empties the ring. -/
theorem State.powerCycle_ringWhole (h : s.cfg.valid = true) : s.powerCycle.ringWhole = true := by
  have hr : s.powerCycle.ready = true := State.resetWith_ready h
  exact (State.ringWhole_iff _).2 ⟨[], (State.ringQueue_nil_iff hr).2 ((State.occ_eq_zero_iff hr).2 rfl)⟩

end Records

/-- Settles O49: an operation keeps the records whole, what follows it leaves the ring alone, and the other moves leave
it alone or empty it. -/
theorem stepKeepsRecordsWhole : Obligations.StepKeepsRecordsWhole := by
  intro s t hw hq h
  obtain ⟨p, i, moves, rest, u, -, -, -, -, hexec, hsettle⟩ | ⟨moves, -, rfl⟩ |
    ⟨moves, c, info, mask, sleep, hostW, busW, txW, rxW, rfl⟩ := step_cases h
  · have hbegin := (State.beginOperation_sameRing _ p).ringWhole
      (SameRing.ringWhole (s := s) (t := { s with schedule := moves }) ⟨rfl, rfl, rfl, rfl, rfl⟩ hq)
    exact State.settle_ringWhole hbegin (exec_ringWhole hbegin hexec) hsettle
  · exact State.powerCycle_ringWhole ((State.wellFormed_iff s).1 hw).1
  · exact SameRing.ringWhole (s := s) ⟨rfl, rfl, rfl, rfl, rfl⟩ hq

/-- Settles O47: the oldest record's header counts bytes that are there, and no other cause of a pop is
`RING_CORRUPT`. -/
theorem wholeRecordsAreNeverCorrupt : Obligations.WholeRecordsAreNeverCorrupt := by
  intro toTestSink s t hr hw h
  obtain ⟨q, hq⟩ := s.ringWhole_iff.1 hw
  obtain ⟨-, hl | ⟨c, info, hf, rfl⟩⟩ := exec_cases h
  · rw [State.faultCode_of_ready (hl.ready hr)]
    decide
  · obtain ⟨-, ho, ⟨hbad, -⟩ | ⟨-, -, -, -, -, rfl, -⟩⟩ := hf
    · cases q with
      | nil => exact absurd ((State.ringQueue_nil_iff hr).1 hq) ho
      | cons m q =>
        obtain ⟨hhead, hle, -⟩ := State.takeRecord_ringQueue hr hq
        omega
    · rw [State.halt_faultCode]
      decide

end Sys2Proof.Machine

/-! PROOFS. The arbiter's counts and the blocks the engines hold (60_exceptions.md R269): what each operation's outputs
tell the arbiter, and that every step keeps the two paired. -/

namespace Sys2Proof.Machine

section Power

variable {s t u : State} {l : Nat}

/-! ### The arbiter's counts and the engines' blocks (R111, R144, R269) -/

/-- The outputs to the power-mode arbiter. -/
def Output.movesPower : Output → Bool
  | .pmBlock _ | .pmUnblock _ => true
  | .busCmd _ | .destWrite _ _ | .txByte _ | .post _ | .sinkOut _ | .result _ => false

/-- Outputs that are not the arbiter's leave its counts alone, and none is an imbalance. -/
theorem State.deliverAll_of_not_movesPower {os : List Output} (h : ∀ o ∈ os, o.movesPower = false) (s : State) :
    ∃ mask, s.deliverAll os = .done { s with eventMask := mask } := by
  induction os generalizing s with
  | nil => exact ⟨s.eventMask, rfl⟩
  | cons o os ih =>
    obtain ⟨ho, hos⟩ := List.forall_mem_cons.1 h
    cases o with
    | post e => exact ih hos (s.postEvent e)
    | pmBlock | pmUnblock => cases ho
    | busCmd | destWrite | txByte | sinkOut | result => exact ih hos s

/-- What an operation's outputs `os` say to the arbiter is what it does to the blocks the engines hold: nothing, one
block more of a level, or one less. -/
def PowerEffect (s u : State) (os : List Output) : Prop :=
  ((∀ o ∈ os, o.movesPower = false) ∧ ∀ k, u.outstanding k = s.outstanding k) ∨
  (∃ l rest, os = .pmBlock l :: rest ∧ (∀ o ∈ rest, o.movesPower = false) ∧ l < s.cfg.pmLevels ∧
    ∀ k, u.outstanding k = s.outstanding k + if l = k then 1 else 0) ∨
  (∃ l rest, os = .pmUnblock l :: rest ∧ (∀ o ∈ rest, o.movesPower = false) ∧ l < s.cfg.pmLevels ∧
    ∀ k, s.outstanding k = u.outstanding k + if l = k then 1 else 0)

theorem State.sendByte_outputs (s : State) :
    ∃ os, (∀ o ∈ os, o.movesPower = false) ∧ s.sendByte.trace = s.trace ++ os := by
  unfold State.sendByte
  split
  · exact ⟨_, by simp [Output.movesPower], rfl⟩
  · exact ⟨[], nofun, (List.append_nil _).symm⟩

/-- Every operation that leaves a state without a fault tells the arbiter what its engine holds. -/
theorem Leaves.powerEffect {i : Instr} (hr : s.ready = true) (h : Leaves s i u) :
    ∃ os, u.trace = s.trace ++ os ∧ PowerEffect s u os := by
  obtain ⟨-, -, -, hbus, htx, -⟩ := (cfgValid_iff _).1 (State.cfg_valid_of_ready hr)
  cases h with
  | begins _ _ _ _ h =>
    exact ⟨_, rfl, .inr (.inl ⟨_, _, rfl, by simp [Output.movesPower], hbus, fun k => by
      simp [State.outstanding, h, Nat.add_comm]⟩)⟩
  | stops h =>
    exact ⟨_, rfl, .inr (.inr ⟨_, _, rfl, by simp [Output.movesPower], hbus, fun k => by
      simp [State.outstanding, h, Nat.add_comm]⟩)⟩
  | starts _ h | popsToTransmitter _ _ _ _ _ h =>
    exact ⟨_, rfl, .inr (.inl ⟨_, _, rfl, by simp [Output.movesPower], htx, fun k => by
      simp [State.outstanding, h, Nat.add_comm]⟩)⟩
  | completes h =>
    have hbusy : s.txBusy = true := by
      obtain ⟨-, hbusy, -, hcie, -⟩ := s.txOk_iff.1 (State.txOk_of_ready hr)
      rw [hbusy, hcie.1 h]
      decide
    exact ⟨_, rfl, .inr (.inr ⟨_, _, rfl, by simp [Output.movesPower], htx, fun k => by
      simp [State.outstanding, hbusy, Nat.add_comm]⟩)⟩
  | selected h | commanded h | highByte _ h | lowByte _ h =>
    exact ⟨_, rfl, .inl ⟨by simp [Output.movesPower], fun k => by simp [State.outstanding, h]⟩⟩
  | confirmed h =>
    exact ⟨[], (List.append_nil _).symm, .inl ⟨nofun, fun k => by simp [State.outstanding, h]⟩⟩
  | retriesWrite | retriesRead | returnsFrame | returnsDraw | endsFrame | lineEndsFrame | popsNothing | popsToSink
  | countsSpace | countsOccupied =>
    exact ⟨_, rfl, .inl ⟨by simp [Output.movesPower], fun _ => rfl⟩⟩
  | sends =>
    obtain ⟨os, hos, htrace⟩ := s.sendByte_outputs
    refine ⟨os, s.sendByte.finishSending_trace.trans htrace, .inl ⟨hos, fun k => ?_⟩⟩
    rw [s.finishSending_sendByte_eq]
    rfl
  | pushes =>
    rw [State.ringPutAll_eq]
    exact ⟨[], (List.append_nil _).symm, .inl ⟨nofun, fun _ => rfl⟩⟩
  | holds | beginsFrame | restartsFrame | appends | discards =>
    exact ⟨[], (List.append_nil _).symm, .inl ⟨nofun, fun _ => rfl⟩⟩

/-- Writing one count of the counts of `f` gives the counts of `g`, which differs at that level only. -/
theorem set_map_range (n : Nat) {f g : Nat → Nat} (h : ∀ k, k ≠ l → g k = f k) :
    ((List.range n).map f).set l (g l) = (List.range n).map g := by
  refine List.ext_getElem (by simp) fun k hk hk' => ?_
  rw [List.getElem_set]
  by_cases hkl : l = k
  · simp [hkl]
  · simp [hkl, h k (Ne.symm hkl)]

theorem State.blockCount_of_powerPaired (hp : s.powerPaired = true) (hl : l < s.cfg.pmLevels) :
    s.blockCount l = s.outstanding l := by
  simp [State.blockCount, (s.powerPaired_iff.1 hp).1, hl]

/-- Counts that follow a change of the blocks held at one level are paired again. -/
theorem State.powerPaired_of_set (hp : s.powerPaired = true) (hcfg : t.cfg = s.cfg)
    (hother : ∀ k, k ≠ l → t.outstanding k = s.outstanding k) (hl : t.outstanding l ≤ s.cfg.pmBlockBound)
    (hcount : t.pmCount = s.pmCount.set l (t.outstanding l)) : t.powerPaired = true := by
  obtain ⟨hpair, hbound⟩ := s.powerPaired_iff.1 hp
  rw [State.powerPaired_iff, hcfg]
  refine ⟨by rw [hcount, hpair, set_map_range _ hother], fun k hk => ?_⟩
  by_cases hkl : k = l
  · rwa [hkl]
  · rw [hother k hkl]
    exact hbound k hk

/-- The arbiter, told of an operation's effect, counts the blocks the engines then hold. `v` is the state the outputs
are delivered to: its counts are still those of `s`, and its engines hold what they hold in `u`. -/
theorem State.deliverAll_powerPaired {v : State} {os : List Output} (hp : s.powerPaired = true)
    (he : PowerEffect s u os) (hcfg : v.cfg = s.cfg) (hcount : v.pmCount = s.pmCount)
    (hout : v.outstanding = u.outstanding) (h : v.deliverAll os = .done t) : t.powerPaired = true := by
  have hv (l : Nat) : v.blockCount l = s.blockCount l := by simp only [State.blockCount, hcount]
  obtain ⟨hos, hsame⟩ | ⟨l, rest, rfl, hos, hl, hmore⟩ | ⟨l, rest, rfl, hos, hl, hless⟩ := he
  · obtain ⟨mask, hd⟩ := State.deliverAll_of_not_movesPower hos v
    rw [hd] at h
    cases h
    have hsame : v.outstanding = s.outstanding := hout.trans (funext hsame)
    rw [State.powerPaired_iff] at hp ⊢
    rwa [← hcfg, ← hcount, ← hsame] at hp
  · obtain ⟨w, hw, hrest⟩ := Effect.andThen_done_iff.1 h
    obtain ⟨hlt, rfl⟩ := State.blockLevel_eq_done_iff.1 hw
    obtain ⟨mask, hd⟩ := State.deliverAll_of_not_movesPower hos (v.setBlockCount l (v.blockCount l + 1))
    rw [hd] at hrest
    cases hrest
    have hnew : v.blockCount l + 1 = v.outstanding l := by
      rw [hv, State.blockCount_of_powerPaired hp hl, hout, hmore, if_pos rfl]
    refine State.powerPaired_of_set (l := l) hp hcfg (fun k hk => ?_) ?_ ?_
    · exact (congrFun hout k).trans ((hmore k).trans (by rw [if_neg (Ne.symm hk), Nat.add_zero]))
    · rw [← hcfg]
      exact hnew.symm.trans_le hlt
    · exact congrArg₂ (List.set · l ·) hcount hnew
  · obtain ⟨w, hw, hrest⟩ := Effect.andThen_done_iff.1 h
    have hold : v.blockCount l = v.outstanding l + 1 := by
      rw [hv, State.blockCount_of_powerPaired hp hl, hout, hless, if_pos rfl]
    have hnew : v.blockCount l - 1 = v.outstanding l := by rw [hold, Nat.add_sub_cancel]
    rw [State.deliver, State.unblockLevel_of_pos (by omega)] at hw
    cases hw
    obtain ⟨mask, hd⟩ := State.deliverAll_of_not_movesPower hos (v.setBlockCount l (v.blockCount l - 1))
    rw [hd] at hrest
    cases hrest
    refine State.powerPaired_of_set (l := l) hp hcfg (fun k hk => ?_) ?_ ?_
    · refine (congrFun hout k).trans ?_
      rw [hless k, if_neg (Ne.symm hk), Nat.add_zero]
    · have hbound := (s.powerPaired_iff.1 hp).2 l hl
      rw [← State.blockCount_of_powerPaired hp hl, ← hv, hold] at hbound
      exact Nat.le_of_succ_le hbound
    · exact congrArg₂ (List.set · l ·) hcount hnew

theorem State.setPort_outstanding (s : State) (p : Port) (ws : List Word) :
    (s.setPort p ws).outstanding = s.outstanding := by
  cases p <;> rfl

theorem State.setPort_powerPaired (s : State) (p : Port) (ws : List Word) :
    (s.setPort p ws).powerPaired = s.powerPaired := by
  cases p <;> rfl

theorem State.beginOperation_powerPaired (s : State) (p : Port) : (s.beginOperation p).powerPaired = s.powerPaired := by
  cases p <;> rfl

/-- The model's mark that the host waits is set by a hold only (R256). -/
theorem exec_eq_hold {i : Instr} (h : exec i s = .next u) (hs : s.hostHeld = false) (hu : u.hostHeld = true) :
    u = s.hold := by
  obtain ⟨-, hl | ⟨c, info, -, rfl⟩⟩ := exec_cases h
  · cases hl with
    | holds => rfl
    | sends =>
      rw [State.finishSending_sendByte_eq] at hu
      exact absurd (hs.symm.trans hu) nofun
    | pushes =>
      rw [State.ringPutAll_eq] at hu
      exact absurd (hs.symm.trans hu) nofun
    | _ => exact absurd (hs.symm.trans hu) nofun
  · exact absurd (hs.symm.trans hu) nofun

/-- An operation and what follows it in the step. -/
theorem settle_powerPaired {i : Instr} {p : Port} {rest : List Word} (hp : s.powerPaired = true)
    (hheld : p = .host → s.hostHeld = false) (hexec : exec i s = .next u) (h : s.settle p rest u = .next t) :
    t.powerPaired = true := by
  obtain ⟨rfl, hhost, hu⟩ | ⟨rfl, hh⟩ | ⟨l, rfl⟩ | ⟨hh, mask, counts, hd, rfl⟩ := State.settle_cases h
  · rw [exec_eq_hold hexec (hheld hhost) hu]
    exact hp
  · obtain ⟨hr, hl | ⟨c, info, -, rfl⟩⟩ := exec_cases hexec
    · exact absurd (hh.symm.trans (State.halted_of_ready (hl.ready hr))) nofun
    · rw [State.setPort_powerPaired]
      exact hp
  · exact (s.setPort_powerPaired p rest).trans hp
  · obtain ⟨hr, hl | ⟨c, info, -, rfl⟩⟩ := exec_cases hexec
    · obtain ⟨os, htrace, heffect⟩ := hl.powerEffect hr
      have hsame := exec_sameSurroundings hexec
      rw [htrace, List.drop_left] at hd
      exact State.deliverAll_powerPaired hp heffect ((u.setPort_cfg p rest).trans hsame.cfg)
        ((u.setPort_pmCount p rest).trans hsame.pmCount) (u.setPort_outstanding p rest) hd
    · exact absurd ((s.halt_halted c info).symm.trans hh) nofun

end Power

/-- Settles O50: the outputs of a step tell the arbiter what the engines did, an imbalance or a fault keeps neither,
and the other moves touch neither the engines nor the counts. -/
theorem stepKeepsPowerPaired : Obligations.StepKeepsPowerPaired := by
  intro s t hw hp h
  obtain ⟨p, i, moves, rest, u, -, -, -, -, hexec, hsettle⟩ | ⟨moves, -, rfl⟩ |
    ⟨moves, c, info, mask, sleep, hostW, busW, txW, rxW, rfl⟩ := step_cases h
  · refine settle_powerPaired ?_ ?_ hexec hsettle
    · rw [State.beginOperation_powerPaired]
      exact hp
    · rintro rfl
      rfl
  · exact State.resetWith_powerPaired s.cfg
  · exact hp

end Sys2Proof.Machine

/-! PROOFS. The moves of a step: a condition taken is consumed (60_exceptions.md R257), a held start waits (R256). -/

namespace Sys2Proof.Machine

section Conditions

variable {s t u : State}

/-! ### Conditions are always taken (R257, R259) -/

/-- An outcome that consumes what was presented: the operation goes on or faults, and neither waits nor is refused. -/
def Effect.Taken (e : Effect) : Prop := (∃ t, e = .done t) ∨ ∃ c info, e = .raise c info

theorem Effect.Taken.of_done (t : State) : (Effect.done t).Taken := .inl ⟨t, rfl⟩

theorem Effect.Taken.of_raise (c : FaultCode) (info : Half) : (Effect.raise c info).Taken := .inr ⟨c, info, rfl⟩

theorem Effect.Taken.andThen {e : Effect} {f : State → Effect} (he : e.Taken) (hf : ∀ t, (f t).Taken) :
    (e.andThen f).Taken := by
  obtain ⟨t, rfl⟩ | ⟨c, info, rfl⟩ := he
  · exact hf t
  · exact .of_raise c info

theorem Effect.Taken.ite {p : Prop} [Decidable p] {e f : Effect} (he : e.Taken) (hf : f.Taken) :
    (if p then e else f).Taken := by
  split
  · exact he
  · exact hf

theorem Effect.Taken.exists_perform {e : Effect} (he : e.Taken) (hr : s.ready = true) :
    ∃ t, s.perform e = .next t := by
  rw [State.perform_of_ready hr]
  obtain ⟨t, rfl⟩ | ⟨c, info, rfl⟩ := he
  · exact ⟨t, rfl⟩
  · exact ⟨_, rfl⟩

theorem State.rxAppend_taken (s : State) (b op : Byte) : (s.rxAppend b op).Taken :=
  .ite (.of_raise _ _) (.of_done _)

theorem State.startFrame_taken (s : State) : s.startFrame.Taken := by
  unfold State.startFrame
  cases s.rxState with
  | idle => exact (State.rxAppend_taken _ _ _).andThen fun _ => .of_done _
  | collecting => exact State.rxAppend_taken _ _ _
  | decoding | reserved => exact .of_done s

theorem State.receiveByte_taken (s : State) (b : Byte) : (s.receiveByte b).Taken :=
  .ite (.of_done s) (s.rxAppend_taken b _)

theorem State.endFrame_taken (s : State) : s.endFrame.Taken :=
  .ite (.of_done s) (.ite (.of_raise _ _) (.of_done _))

/-- R257: every condition of a peripheral is taken. -/
theorem exec_condition_next {i : Instr} (hr : s.ready = true) (hp : i.port ≠ .host) : ∃ t, exec i s = .next t := by
  cases i with
  | busAck | busNack | busData | busStop => exact exec_bus_next hr rfl
  | txByteReady | txComplete => exact Effect.Taken.exists_perform (.ite (.of_done _) (.of_done _)) hr
  | rxStartFrame => exact s.startFrame_taken.exists_perform hr
  | rxByte b => exact (s.receiveByte_taken b).exists_perform hr
  | rxEndFrame => exact s.endFrame_taken.exists_perform hr
  | rxLine b =>
    exact Effect.Taken.exists_perform
      (.ite s.startFrame_taken ((s.receiveByte_taken b).andThen fun t => .ite t.endFrame_taken (.of_done t))) hr
  | _ => exact absurd rfl hp

theorem SameSurroundings.portWords (h : SameSurroundings s t) (p : Port) : t.portWords p = s.portWords p := by
  cases p with
  | host => exact h.hostPort
  | bus => exact h.busPort
  | tx => exact h.txPort
  | rx => exact h.rxPort

/-- The words of a taken operation, and no others, have left their port, and nobody else has moved. -/
structure TakesWords (s : State) (p : Port) (rest : List Word) (t : State) : Prop where
  schedule : t.schedule = s.schedule
  taken : t.portWords p = rest
  others : ∀ q, q ≠ p → t.portWords q = s.portWords q

theorem SameSurroundings.takesWords (h : SameSurroundings s u) (p : Port) (rest : List Word) :
    TakesWords s p rest (u.setPort p rest) where
  schedule := (u.setPort_schedule p rest).trans h.schedule
  taken := u.setPort_portWords_self p rest
  others := fun q hq => (State.setPort_portWords_of_ne u hq rest).trans (h.portWords q)

/-- The environment and a halt leave the ports alone. -/
theorem TakesWords.congr {p : Port} {rest : List Word} (h : TakesWords s p rest t)
    (hsched : u.schedule = t.schedule) (hwords : u.portWords = t.portWords) : TakesWords s p rest u where
  schedule := hsched.trans h.schedule
  taken := (congrFun hwords p).trans h.taken
  others := fun q hq => (congrFun hwords q).trans (h.others q hq)

theorem State.portWords_env (s : State) (mask : BitVec 32) (counts : List Nat) :
    ({ s with eventMask := mask, pmCount := counts } : State).portWords = s.portWords := by
  funext p
  cases p <;> rfl

theorem State.portWords_halt (s : State) (c : FaultCode) (info : Half) : (s.halt c info).portWords = s.portWords := by
  funext p
  cases p <;> rfl

theorem SameSurroundings.refl (s : State) : SameSurroundings s s :=
  ⟨rfl, rfl, rfl, rfl, rfl, rfl, rfl, rfl, rfl, rfl⟩

theorem State.settle_takesWords {p : Port} {rest : List Word} (hp : p ≠ .host) (hu : SameSurroundings s u) :
    ∃ t, s.settle p rest u = .next t ∧ TakesWords s p rest t := by
  rw [State.settle, if_neg (by simp [hp])]
  split
  · exact ⟨_, rfl, hu.takesWords p rest⟩
  · obtain ⟨mask, counts, hd⟩ | ⟨l, hd⟩ := (u.setPort p rest).deliverAll_cases
        (u.trace.drop s.trace.length) <;> rw [hd]
    · exact ⟨_, rfl, (hu.takesWords p rest).congr rfl (State.portWords_env _ mask counts)⟩
    · exact ⟨_, rfl, ((SameSurroundings.refl s).takesWords p rest).congr rfl (State.portWords_halt _ _ _)⟩

/-! ### The step of a presented operation -/

theorem step_of_exec {p : Port} {i : Instr} {moves : List Move} {rest : List Word} (hs : s.schedule = .port p :: moves)
    (hh : s.halted = false) (ha : s.asleep = none) (hd : decode p (s.portWords p) = .op i rest)
    (he : exec i (({ s with schedule := moves } : State).beginOperation p) = .next u) :
    step s = (({ s with schedule := moves } : State).beginOperation p).settle p rest u := by
  rw [step_of_port hs hh ha, State.runPort_of_op (by rwa [State.portWords_schedule]), he]

theorem State.beginOperation_of_ne_host {p : Port} (hp : p ≠ .host) (s : State) : s.beginOperation p = s := by
  cases p with
  | host => exact absurd rfl hp
  | bus | tx | rx => rfl

theorem State.beginOperation_of_not_held (h : s.hostHeld = false) (p : Port) : s.beginOperation p = s := by
  cases p with
  | host => rw [State.beginOperation, ← h]
  | bus | tx | rx => rfl

end Conditions

/-- Settles O59: every condition is taken, and what follows takes its words off the port. -/
theorem takenConditionsAreConsumed : Obligations.TakenConditionsAreConsumed := by
  intro s p moves i rest hs hp hr ha hd
  have hport : i.port = p := (decode_eq_op_iff.1 hd).2.1
  have hbegin := State.beginOperation_of_ne_host hp { s with schedule := moves }
  obtain ⟨u, hu⟩ := exec_condition_next (s := { s with schedule := moves }) hr (hport ▸ hp)
  obtain ⟨t, ht, htakes⟩ := State.settle_takesWords hp (rest := rest) (exec_sameSurroundings hu)
  refine ⟨t, ?_, htakes.schedule, htakes.taken, fun q hq => (htakes.others q hq).trans
    (s.portWords_schedule moves q)⟩
  rw [step_of_exec hs (State.halted_of_ready hr) ha hd (hbegin ▸ hu), hbegin, ht]

/-- Settles O28: the operation holds, and a held operation keeps its words. -/
theorem heldStartWaitsOnTheHostPort : Obligations.HeldStartWaitsOnTheHostPort := by
  intro s moves text rest hs hr ha hb hd
  have he := exec_serStart_of_busy (s := { s with schedule := moves, hostHeld := false }) hr hb text
  rw [step_of_exec hs (State.halted_of_ready hr) ha hd he, State.settle_of_held rfl]
  rfl

end Sys2Proof.Machine

/-! PROOFS. The environment contract (60_exceptions.md R270 to R276): the event mask, the arbiter's bound, the outputs
of a step delivered to both, and the moves of the application and the dispatch loop. -/

namespace Sys2Proof.Machine

section Environment

variable {s t u : State}

/-! ### The event mask (R270, R271) -/

theorem eventBit_getLsbD (e k : BitVec 5) : (eventBit e).getLsbD k.toNat = decide (k = e) := by
  have hk := k.isLt
  have he : k = e ↔ k.toNat = e.toNat := BitVec.toNat_eq
  rw [Bool.eq_iff_iff, decide_eq_true_iff, he]
  simp [eventBit]
  omega

theorem State.postEvent_getLsbD (s : State) (e k : BitVec 5) :
    (s.postEvent e).eventMask.getLsbD k.toNat = (decide (k = e) || s.eventMask.getLsbD k.toNat) := by
  simp only [State.postEvent, BitVec.getLsbD_or, eventBit_getLsbD, Bool.or_comm]

theorem State.clearEvent_getLsbD (s : State) (e k : BitVec 5) :
    (s.clearEvent e).eventMask.getLsbD k.toNat = (!decide (k = e) && s.eventMask.getLsbD k.toNat) := by
  have hk : decide (k.toNat < 32) = true := decide_eq_true k.isLt
  simp only [State.clearEvent, BitVec.getLsbD_and, BitVec.getLsbD_not, eventBit_getLsbD, hk, Bool.true_and,
    Bool.and_comm]

/-- Every bit of the mask is some event's. -/
theorem eventMask_ext {x y : BitVec 32} (h : ∀ k : BitVec 5, x.getLsbD k.toNat = y.getLsbD k.toNat) : x = y := by
  refine BitVec.eq_of_getLsbD_eq fun k hk => ?_
  have hk' := h (BitVec.ofNat 5 k)
  rwa [BitVec.toNat_ofNat, Nat.mod_eq_of_lt hk] at hk'

end Environment

/-- Settles O52, bit by bit. -/
theorem eventsAreLevelTriggeredFlags : Obligations.EventsAreLevelTriggeredFlags := by
  intro s e
  refine ⟨s.postEvent_getLsbD e, s.clearEvent_getLsbD e, ?_, fun hunset => ?_⟩
  · have hmask : ((s.postEvent e).postEvent e).eventMask = (s.postEvent e).eventMask := eventMask_ext fun k => by
      rw [State.postEvent_getLsbD, State.postEvent_getLsbD, ← Bool.or_assoc, Bool.or_self]
    exact congrArg (fun mask => ({ s with eventMask := mask } : State)) hmask
  · have hmask : (s.clearEvent e).eventMask = s.eventMask := eventMask_ext fun k => by
      rw [State.clearEvent_getLsbD]
      by_cases hk : k = e
      · rw [hk, hunset, Bool.and_false]
      · simp [hk]
    exact congrArg (fun mask => ({ s with eventMask := mask } : State)) hmask

/-- Settles O53: both calls at both sides of their bound. -/
theorem arbiterCountsWithinItsBound : Obligations.ArbiterCountsWithinItsBound := fun _ _ _ =>
  ⟨State.blockLevel_of_lt, State.blockLevel_of_ge, State.unblockLevel_of_pos, fun h => if_pos h⟩

section Environment

variable {s t u : State} {l : Nat}

theorem State.deepestAllowed_le (h : 0 < s.blockCount l) : s.deepestAllowed ≤ l := by
  have hblocked : ∃ k, 0 < s.blockCount k := ⟨l, h⟩
  have hleast : ∀ k < Nat.find hblocked, s.blockCount k = 0 := fun k hk =>
    Nat.eq_zero_of_not_pos (Nat.find_min hblocked hk)
  rw [State.deepestAllowed_of_least (Nat.find_spec hblocked) hleast]
  exact Nat.find_min' hblocked h

/-! ### What the outputs of a step do to the environment -/

/-- R272: a block the arbiter finds above its bound. -/
theorem State.deliverAll_pmBlock_of_ge (h : s.cfg.pmBlockBound ≤ s.blockCount l) (os : List Output) :
    s.deliverAll (.pmBlock l :: os) = .raise .pmImbalance (BitVec.ofNat 16 l) := by
  rw [State.deliverAll, State.deliver, State.blockLevel_of_ge h]
  rfl

/-- R273, R270: the outputs of a completing condition. -/
theorem State.deliverAll_pmUnblock_post (h : 0 < s.blockCount l) (e : BitVec 5) :
    s.deliverAll [.pmUnblock l, .post e] = .done ((s.setBlockCount l (s.blockCount l - 1)).postEvent e) := by
  rw [State.deliverAll, State.deliver, State.unblockLevel_of_pos h]
  rfl

/-- The step of a host operation whose first output is a block above the arbiter's bound. -/
theorem step_of_block_imbalance {i : Instr} {moves : List Move} {rest : List Word} {os : List Output}
    (hs : s.schedule = .port .host :: moves) (hr : s.ready = true) (ha : s.asleep = none) (hheld : s.hostHeld = false)
    (hd : decode .host s.hostPort = .op i rest) (he : exec i ({ s with schedule := moves } : State) = .next u)
    (hu : u.halted = false) (hw : u.hostHeld = false) (ht : u.trace = s.trace ++ .pmBlock l :: os)
    (hl : s.cfg.pmBlockBound ≤ s.blockCount l) :
    step s = .next { s with
      schedule := moves, hostPort := rest, faultCode := 8, faultInfo := BitVec.ofNat 16 l } := by
  have hbegin := State.beginOperation_of_not_held (s := { s with schedule := moves }) hheld .host
  have hsame := exec_sameSurroundings he
  have hge : (u.setPort .host rest).cfg.pmBlockBound ≤ (u.setPort .host rest).blockCount l := by
    rw [State.blockCount, State.setPort_cfg, State.setPort_pmCount, hsame.cfg, hsame.pmCount]
    exact hl
  rw [step_of_exec hs (State.halted_of_ready hr) ha hd (hbegin ▸ he), hbegin,
    State.settle_of_imbalance (s := { s with schedule := moves }) (by simp [hw]) hu ht
      (State.deliverAll_pmBlock_of_ge hge os)]
  rfl

/-- The step of a condition whose outputs the environment takes. -/
theorem step_of_delivered {p : Port} {i : Instr} {moves : List Move} {rest : List Word} {os : List Output}
    (hs : s.schedule = .port p :: moves) (hp : p ≠ .host) (hr : s.ready = true) (ha : s.asleep = none)
    (hd : decode p (s.portWords p) = .op i rest) (he : exec i ({ s with schedule := moves } : State) = .next u)
    (hu : u.halted = false) (ht : u.trace = s.trace ++ os) (hos : (u.setPort p rest).deliverAll os = .done t) :
    step s = .next t := by
  have hbegin := State.beginOperation_of_ne_host hp { s with schedule := moves }
  rw [step_of_exec hs (State.halted_of_ready hr) ha hd (hbegin ▸ he), hbegin,
    State.settle_of_completed (s := { s with schedule := moves }) (by simp [hp]) hu ht hos]

/-- The step of a completing condition that unblocks a level and posts its event. -/
theorem step_of_unblock {p : Port} {i : Instr} {moves : List Move} {rest : List Word} {e : BitVec 5}
    (hs : s.schedule = .port p :: moves) (hp : p ≠ .host) (hr : s.ready = true) (ha : s.asleep = none)
    (hd : decode p (s.portWords p) = .op i rest) (he : exec i ({ s with schedule := moves } : State) = .next u)
    (hu : u.halted = false) (ht : u.trace = s.trace ++ [.pmUnblock l, .post e]) (hl : 0 < s.blockCount l) :
    step s = .next { u.setPort p rest with
      pmCount := s.pmCount.set l (s.blockCount l - 1), eventMask := s.eventMask ||| eventBit e } := by
  have hsame := exec_sameSurroundings he
  have hcount : (u.setPort p rest).blockCount l = s.blockCount l := by
    rw [State.blockCount, State.setPort_pmCount, hsame.pmCount]
    rfl
  rw [step_of_delivered hs hp hr ha hd he hu ht (State.deliverAll_pmUnblock_post (hcount ▸ hl) e), State.postEvent,
    State.setBlockCount_eventMask, State.setPort_eventMask, hsame.eventMask, State.setBlockCount, hcount,
    State.setPort_pmCount, hsame.pmCount]

end Environment

/-- Settles O54: the level just blocked has a count. -/
theorem blockThenUnblockRestores : Obligations.BlockThenUnblockRestores := by
  intro s t l hl h
  refine ⟨State.unblockLevel_of_blockLevel hl h, State.deepestAllowed_le ?_⟩
  obtain ⟨-, rfl⟩ := State.blockLevel_eq_done_iff.1 h
  rw [State.blockCount_setBlockCount_self hl]
  exact Nat.succ_pos _

/-- Settles O56: the four moves, by what they test. -/
theorem sleepIsEnteredOnlyWithAnEmptyMask : Obligations.SleepIsEnteredOnlyWithAnEmptyMask := by
  intro s moves hh
  refine ⟨fun hs ha hheld hmask => ?_, fun hs ha hheld hmask => ?_, fun p hs ha => ?_, fun hs => step_of_move hs hh⟩
  all_goals rw [step_of_move hs hh, State.takeMove]
  · rw [if_pos (by simp [State.hostFree, ha, hheld]), State.enterIdle, if_pos hmask]
    rfl
  · rw [if_pos (by simp [State.hostFree, ha, hheld]), State.enterIdle, if_neg hmask]
  · rw [if_pos (Option.isSome_iff_ne_none.2 ha)]

/-- Settles O60: the two moves, and when the host is free. -/
theorem eventMovesReachTheScheduler : Obligations.EventMovesReachTheScheduler := by
  intro s moves e hh
  refine ⟨fun hs => step_of_move hs hh, fun hs hheld ha => ?_, fun hs hwait => ?_⟩
  all_goals rw [step_of_move hs hh, State.takeMove]
  · rw [if_pos (by simp [State.hostFree, ha, hheld])]
    rfl
  · rw [if_neg]
    obtain hheld | ha := hwait
    · simp [State.hostFree, hheld]
    · simp [State.hostFree, ha]

/-- Settles O57: the three operations whose first output is a block. -/
theorem imbalanceHaltsTheBlock : Obligations.ImbalanceHaltsTheBlock := by
  intro s moves rest hs hr ha hheld
  have hh := State.halted_of_ready hr
  have hr' : ({ s with schedule := moves } : State).ready = true := hr
  refine ⟨fun addr cmd evt dest hd hidle hl => ?_, fun text hd hb ht hlen hl => ?_,
    fun h m hd hb hhead h0 ho hm ht hlen hl => ?_⟩
  · exact step_of_block_imbalance hs hr ha hheld hd (exec_busStart_of_idle hr' hidle addr cmd evt dest) hh hheld rfl hl
  · exact step_of_block_imbalance hs hr ha hheld hd (exec_serStart_of_fits hr' hb ht hlen) hh hheld rfl hl
  · rw [← State.ringReadAll_message hr] at hm
    have hm' : m = ({ s with schedule := moves } : State).ringReadAll (s.ringNext s.ringRd) (h - 1) := hm.trans
      (State.ringReadAll_congr (s := s) (t := { s with schedule := moves }) rfl rfl _ _).symm
    obtain ⟨-, -, hpop⟩ := exec_ringPop_false hr' hb hhead h0 ho hm'
    exact step_of_block_imbalance hs hr ha hheld hd (hpop ht hlen) hh hheld rfl hl

/-- Settles O58: the two completions that unblock a level, and the two that post only. -/
theorem completionReachesSchedulerAndArbiter : Obligations.CompletionReachesSchedulerAndArbiter := by
  intro s moves rest hr ha
  have hh := State.halted_of_ready hr
  have hr' : ({ s with schedule := moves } : State).ready = true := hr
  refine ⟨fun hs hd hdone hl => ?_, fun hs hd hie hl => ?_, fun hs hend => ?_⟩
  · exact step_of_unblock hs (by decide) hr ha hd (exec_busStop_of_done hr' hdone) hh rfl hl
  · exact step_of_unblock hs (by decide) hr ha hd (exec_txComplete_of_enabled hr' hie) hh rfl hl
  · obtain ⟨hd, hie, hlen⟩ | ⟨hd, hcoll, hlen⟩ := hend
    · exact ⟨_, step_of_delivered hs (by decide) hr ha hd (exec_rxEndFrame_of_lt hr' hie hlen) hh rfl rfl,
        rfl, rfl, rfl, rfl, rfl⟩
    · exact ⟨_, step_of_delivered hs (by decide) hr ha hd (exec_rxLine_eofMarker_of_lt hr' hcoll hlen) hh rfl rfl,
        rfl, rfl, rfl, rfl, rfl⟩

end Sys2Proof.Machine

/-! PROOFS. The ring's space (43_ring_buffer.md R216) and whole transactions (40_bus_engine.md R112). -/

namespace Sys2Proof.Machine

/-- Settles O44. -/
theorem spaceAndOccupancyAddUp : Obligations.SpaceAndOccupancyAddUp := by
  intro s hw
  obtain ⟨hcfg, hshape, -⟩ := s.wellFormed_iff.1 hw
  obtain ⟨hc, -⟩ := (cfgValid_iff _).1 hcfg
  obtain ⟨-, hrd, hwr, -⟩ := s.shapeOk_iff.1 hshape
  have hlt := State.occ_lt hc
  have hzero : s.occ = 0 ↔ s.ringRd = s.ringWr := by
    rw [State.occ_eq_iff hc hrd hwr, Nat.add_zero, Nat.mod_eq_of_lt hrd, and_iff_right (Nat.zero_lt_of_lt hrd)]
  rw [← hzero, State.space]
  omega

section Runs

variable {s t : State}

theorem runAll_append_of_next {cs : List Instr} (h : runAll cs s = .next t) (ds : List Instr) :
    runAll (cs ++ ds) s = runAll ds t := by
  induction cs generalizing s with
  | nil =>
    cases h
    rfl
  | cons c cs ih =>
    cases he : exec c s with
    | next u =>
      rw [runAll_cons_of_next he] at h
      rw [List.cons_append, runAll_cons_of_next he, ih h]
    | fault f => simp [runAll, he] at h
    | refused r => simp [runAll, he] at h

/-! ### A whole bus transaction (R112) -/

/-- Any number of retries of the write select, then the command and the read select. -/
theorem runAll_select (hr : s.ready = true) (h : s.busState = .selectDevice) (n : Nat) (cs : List Instr) :
    runAll (List.replicate n .busNack ++ .busAck :: .busAck :: cs) s = runAll cs { s with
      busState := .confirmSelect,
      trace := s.trace ++ List.replicate n (.busCmd (.sel (s.busAddr ++ 0#1))) ++
        [.busCmd (.wr s.busCmd), .busCmd (.sel (s.busAddr ++ 1#1))] } := by
  obtain ⟨hretry, -⟩ := busRetriesAreUnbounded n s hr
  rw [runAll_append_of_next (hretry h), runAll_cons_of_next (exec_busAck_of_selectDevice ?_ ?_),
    runAll_cons_of_next (exec_busAck_of_sendCommand ?_ ?_)]
  · simp [selByte_write, selByte_read]
  · exact State.ready_of_bus_fields hr (by decide) _ _ _ _ _ _
  · rfl
  · exact hr
  · exact h

/-- Any number of retries of the read select, then the two bytes and the stop. -/
theorem runAll_receive (hr : s.ready = true) (h : s.busState = .confirmSelect) (m : Nat) (hi lo : Byte) :
    runAll (List.replicate m .busNack ++ [.busAck, .busData hi, .busData lo, .busStop]) s = .next { s with
      busState := .idle, busHi := hi,
      trace := s.trace ++ List.replicate m (.busCmd (.sel (s.busAddr ++ 1#1))) ++
        [.busCmd .ack, .destWrite s.busDest (hi ++ lo), .busCmd .nack, .busCmd .stop, .pmUnblock s.cfg.busPmLevel,
          .post s.busEvt] } := by
  obtain ⟨-, hretry⟩ := busRetriesAreUnbounded m s hr
  rw [runAll_append_of_next (hretry h), runAll_cons_of_next (exec_busAck_of_confirmSelect ?_ ?_),
    runAll_cons_of_next (exec_busData_of_receiveHigh ?_ ?_ hi),
    runAll_cons_of_next (exec_busData_of_receiveLow ?_ ?_ lo),
    runAll_cons_of_next (exec_busStop_of_done ?_ ?_)]
  · simp [runAll, selByte_read]
  · exact State.ready_of_bus_fields hr (by decide) _ _ _ _ _ _
  · rfl
  · exact State.ready_of_bus_fields hr (by decide) _ _ _ _ _ _
  · rfl
  · exact State.ready_of_bus_fields hr (by decide) _ _ _ _ _ _
  · rfl
  · exact hr
  · exact h

end Runs

/-- Settles O26: the start, the select phase and the receive phase, one after the other. -/
theorem busTransactionDeliversTheWord : Obligations.BusTransactionDeliversTheWord := by
  intro addr cmd evt dest n m hi lo s hr hidle
  have hsplit : busTransaction n m hi lo = List.replicate n .busNack ++ .busAck :: .busAck ::
      (List.replicate m .busNack ++ [.busAck, .busData hi, .busData lo, .busStop]) := by
    simp [busTransaction]
  rw [hsplit, runAll_cons_of_next (exec_busStart_of_idle hr hidle addr cmd evt dest), runAll_select ?_ ?_,
    runAll_receive ?_ ?_]
  · simp [hidle, selByte_write, List.replicate_succ]
  · exact State.ready_of_bus_fields hr (by decide) _ _ _ _ _ _
  · rfl
  · exact State.ready_of_bus_fields hr (by decide) _ _ _ _ _ _
  · rfl

end Sys2Proof.Machine

/-! PROOFS. A whole transmission (41_serial_tx.md R144). -/

namespace Sys2Proof.Machine

section Transmission

variable {s t : State} {rest : List Byte}

/-- An operation that has not faulted leaves a ready state. -/
theorem ready_of_exec {i : Instr} (h : exec i s = .next t) (hf : t.faultCode = 0) : t.ready = true := by
  obtain ⟨hr, hl | ⟨c, info, -, rfl⟩⟩ := exec_cases h
  · exact hl.ready hr
  · exact absurd hf c.number_ne_zero

theorem runAll_cfg {cs : List Instr} (h : runAll cs s = .next t) : t.cfg = s.cfg := by
  induction cs generalizing s with
  | nil =>
    cases h
    rfl
  | cons c cs ih =>
    rw [runAll] at h
    split at h
    · rename_i he
      exact (ih h).trans (exec_sameSurroundings he).cfg
    · cases h
    · cases h

/-! ### A whole transmission (R144) -/

/-- A transmission in flight with `rest` still to be written: the bytes of `tx_buf` from `tx_sent` up to `tx_len`. -/
structure Sending (s : State) (rest : List Byte) : Prop where
  ready : s.ready = true
  enabled : s.txBlIe = true
  length : s.txLen.toNat = s.txSent.toNat + rest.length
  bytes : ∀ (k : Nat) (h : k < rest.length), s.txRead (s.txSent.toNat + k) = rest[k]

/-- `SER_START` begins a transmission with the whole text to be written. -/
theorem sending_of_start (hr : s.ready = true) (hb : s.txBusy = false) (hl : rest.length ≤ s.cfg.txBufLen)
    (tr : List Output) : Sending { s.transmitting rest with trace := tr } rest where
  ready := State.transmitting_ready hr hb hl
  enabled := rfl
  length := by
    have hmax := State.txBufLen_le_of_ready hr
    have hlen : (BitVec.ofNat 8 rest.length).toNat = rest.length := Nat.mod_eq_of_lt (by omega)
    simp [State.transmitting, hlen]
  bytes := fun k hk => by
    refine Memory.read_of_get? ?_ _ _
    simp [State.transmitting, Memory.get?_setAll, hk]

theorem Sending.txState_ne_idle (h : Sending s rest) : s.txState ≠ .idle := by
  rw [State.txState_of_txBlIe h.ready h.enabled]
  decide

/-- A byte-ready before the last byte writes the next byte (R142). -/
theorem Sending.exec_more {b c : Byte} (h : Sending s (b :: c :: rest)) :
    ∃ t, exec .txByteReady s = .next t ∧ Sending t (c :: rest) ∧ t.trace = s.trace ++ [.txByte b] := by
  have hlen := h.length
  have hb : s.txRead s.txSent.toNat = b := h.bytes 0 (Nat.succ_pos _)
  simp only [List.length_cons] at hlen
  have hsent : (s.txSent + 1).toNat = s.txSent.toNat + 1 := by bv_omega
  have hf := State.faultCode_of_ready h.ready
  have he := exec_txByteReady_of_more h.ready h.enabled (by omega)
  refine ⟨_, he, ⟨ready_of_exec he hf, h.enabled, ?_, fun k hk => ?_⟩, by rw [hb]⟩
  · simp only [List.length_cons]
    omega
  · have hbyte := h.bytes (k + 1) (Nat.succ_lt_succ hk)
    simp only [hsent, Nat.add_right_comm _ 1]
    exact hbyte

/-- The byte-ready of the last byte, or the one of an empty text, switches to `COMPLETING` (R142). -/
theorem Sending.exec_last (h : Sending s rest) (hlast : rest.length ≤ 1) :
    ∃ t, exec .txByteReady s = .next t ∧ t.ready = true ∧ t.txState = .completing ∧ t.txCIe = true ∧
      t.trace = s.trace ++ rest.map .txByte := by
  have hlen := h.length
  have hf := State.faultCode_of_ready h.ready
  match rest, hlast with
  | [], _ =>
    have he := exec_txByteReady_of_none_left h.ready h.enabled (BitVec.eq_of_toNat_eq hlen.symm)
    exact ⟨_, he, ready_of_exec he hf, rfl, rfl, (List.append_nil _).symm⟩
  | [b], _ =>
    have hb : s.txRead s.txSent.toNat = b := h.bytes 0 Nat.one_pos
    have he := exec_txByteReady_of_last h.ready h.enabled hlen.symm
    exact ⟨_, he, ready_of_exec he hf, rfl, rfl, by rw [hb]; rfl⟩

/-- The byte-readies of a transmission: none ends it, and the last one has written every byte. -/
theorem Sending.runAll (h : Sending s rest) {k : Nat} (hk : k ≤ max rest.length 1) :
    ∃ u, runAll (List.replicate k .txByteReady) s = .next u ∧ u.ready = true ∧ u.txState ≠ .idle ∧
      (k = max rest.length 1 → u.txCIe = true ∧ u.trace = s.trace ++ rest.map .txByte) := by
  induction k generalizing s rest with
  | zero => exact ⟨s, rfl, h.ready, h.txState_ne_idle, fun hmax => absurd hmax (by omega)⟩
  | succ k ih =>
    rw [List.replicate_succ]
    match rest, h, hk with
    | b :: c :: rest, h, hk =>
      simp only [List.length_cons] at hk
      obtain ⟨t, he, hsending, htrace⟩ := h.exec_more
      obtain ⟨u, hrun, hready, hstate, hdone⟩ := ih hsending (by simp only [List.length_cons]; omega)
      refine ⟨u, (runAll_cons_of_next he _).trans hrun, hready, hstate, fun hmax => ?_⟩
      obtain ⟨hie, hu⟩ := hdone (by simp only [List.length_cons] at hmax ⊢; omega)
      exact ⟨hie, by rw [hu, htrace, List.append_assoc]; rfl⟩
    | [], h, hk | [b], h, hk =>
      obtain ⟨t, he, hready, hstate, hie, htrace⟩ := h.exec_last (by simp)
      obtain rfl : k = 0 := Nat.le_zero.1 (Nat.le_of_succ_le_succ hk)
      exact ⟨t, runAll_cons_of_next he _, hready, by rw [hstate]; decide, fun _ => ⟨hie, htrace⟩⟩

end Transmission

/-- Settles O32: the byte-readies after the start, and the transfer-complete after the last of them. -/
theorem transmissionEmitsTheTextInOrder : Obligations.TransmissionEmitsTheTextInOrder := by
  intro text s hr hb ht hl
  have hstart := exec_serStart_of_fits hr hb ht hl
  have hsending := sending_of_start hr hb hl (s.trace ++ [.pmBlock s.cfg.txPmLevel])
  refine ⟨fun k hk => ?_, ?_⟩
  · obtain ⟨u, hrun, hready, hstate, -⟩ := hsending.runAll hk
    exact ⟨u, (runAll_cons_of_next hstart _).trans hrun, hready, hstate⟩
  · obtain ⟨u, hrun, hready, -, hdone⟩ := hsending.runAll le_rfl
    obtain ⟨hie, htrace⟩ := hdone rfl
    have hcfg : u.cfg = s.cfg := (runAll_cfg hrun).trans rfl
    refine ⟨_, ?_, State.ready_of_completed hready hie (s.trace ++ [.pmBlock s.cfg.txPmLevel] ++ text.map .txByte ++
      [.pmUnblock s.cfg.txPmLevel, .post s.cfg.txDoneEvent]), rfl, rfl, rfl⟩
    rw [runAll_cons_of_next hstart, txDrain, runAll_append_of_next hrun,
      runAll_cons_of_next (exec_txComplete_of_enabled hready hie), htrace, hcfg]
    rfl

end Sys2Proof.Machine

/-! PROOFS. The delivery contract and frames from line bytes (42_serial_rx.md R175 to R178). -/

namespace Sys2Proof.Machine

section LineBytes

variable {s t : State}

theorem runAll_singleton (i : Instr) (s : State) : runAll [i] s = exec i s := by
  rw [runAll]
  cases exec i s <;> rfl

/-- A line byte that is no marker is a byte arrival. -/
theorem exec_rxLine_of_ne {b : Byte} (hs : b ≠ s.cfg.sofMarker) (he : b ≠ s.cfg.eofMarker) :
    exec (.rxLine b) s = exec (.rxByte b) s := by
  have hlast : (s.receiveByte b).andThen (fun t => if b = t.cfg.eofMarker then t.endFrame else .done t) =
      s.receiveByte b := by
    unfold State.receiveByte State.rxAppend
    split
    · exact if_neg he
    · split
      · rfl
      · exact if_neg he
  exact congrArg s.perform ((if_neg hs).trans hlast)

theorem exec_rxByte_of_idle (hr : s.ready = true) (h : s.rxState = .idle) (b : Byte) : exec (.rxByte b) s = .next s :=
  exec_rxByte_of_gated hr (.inl (State.rxBlock_of_idle (State.rxOk_of_ready hr) h)) b

theorem exec_rxEndFrame_of_idle (hr : s.ready = true) (h : s.rxState = .idle) : exec .rxEndFrame s = .next s :=
  exec_rxEndFrame_of_gated hr (State.rxEofIe_of_idle (State.rxOk_of_ready hr) h)

theorem State.rxLen_le_of_ready (hr : s.ready = true) : s.rxLen ≤ s.cfg.rxBufLen := by
  obtain ⟨h, -⟩ := s.shapeOk_iff.1 (State.shapeOk_of_ready hr)
  exact h

/-- The end marker that does not fault is its byte and then the end of the frame (R177). -/
theorem exec_rxLine_eofMarker_eq_runAll (hr : s.ready = true) (h : exec (.rxLine s.cfg.eofMarker) s = .next t)
    (hf : t.faultCode = 0) : runAll [.rxByte s.cfg.eofMarker, .rxEndFrame] s = .next t := by
  have hne := State.eofMarker_ne_sofMarker hr
  have hle := State.rxLen_le_of_ready hr
  obtain hidle | hcoll := State.rxState_of_ready hr
  · rw [exec_rxLine_of_idle hr hne hidle] at h
    rw [runAll_cons_of_next (exec_rxByte_of_idle hr hidle _), runAll_singleton, exec_rxEndFrame_of_idle hr hidle, h]
  · obtain ⟨hb, hbyte, heof⟩ := State.rx_of_collecting (State.rxOk_of_ready hr) hcoll
    obtain hfull | hlt := hle.eq_or_lt
    · rw [exec_rxLine_of_full hr hne hcoll hfull] at h
      cases h
      exact absurd hf (FaultCode.number_ne_zero .rxOverflow)
    · obtain hfull | hroom := (Nat.succ_le_of_lt hlt).eq_or_lt
      · rw [exec_rxLine_eofMarker_of_full hr hcoll hfull] at h
        cases h
        exact absurd hf (FaultCode.number_ne_zero .rxOverflow)
      · have hready := State.collectByte_ready hr hcoll hlt s.cfg.eofMarker
        rw [runAll_cons_of_next (exec_rxByte_of_lt hr hb hbyte hlt _), runAll_singleton,
          exec_rxEndFrame_of_lt hready heof hroom, ← h, exec_rxLine_eofMarker_of_lt hr hcoll hroom]
        rfl

/-! ### A frame from its line bytes (R178) -/

/-- Line bytes without a start marker are discarded while the receiver is idle. -/
theorem runAll_rxLineStr_of_idle (hr : s.ready = true) (h : s.rxState = .idle) {bs : List Byte}
    (hs : s.cfg.sofMarker ∉ bs) : runAll (rxLineStr bs) s = .next s := by
  induction bs with
  | nil => rfl
  | cons b bs ih =>
    obtain ⟨hb, hbs⟩ := List.ne_and_not_mem_of_not_mem_cons hs
    rw [rxLineStr, List.map_cons, runAll_cons_of_next (exec_rxLine_of_idle hr (Ne.symm hb) h)]
    exact ih hbs

/-- Line bytes without a marker are byte arrivals. -/
theorem runAll_rxLineStr_of_no_marker {bs : List Byte} (hs : s.cfg.sofMarker ∉ bs) (he : s.cfg.eofMarker ∉ bs) :
    runAll (rxLineStr bs) s = runAll (bs.map .rxByte) s := by
  induction bs generalizing s with
  | nil => rfl
  | cons b bs ih =>
    obtain ⟨hbs, hs⟩ := List.ne_and_not_mem_of_not_mem_cons hs
    obtain ⟨hbe, he⟩ := List.ne_and_not_mem_of_not_mem_cons he
    rw [rxLineStr, List.map_cons, List.map_cons, runAll, runAll, exec_rxLine_of_ne (Ne.symm hbs) (Ne.symm hbe)]
    cases hexec : exec (.rxByte b) s with
    | next t =>
      have hcfg := (exec_sameSurroundings hexec).cfg
      exact ih (hcfg ▸ hs) (hcfg ▸ he)
    | fault f => rfl
    | refused r => rfl

/-- A terminator behind the frame is no part of it. -/
theorem State.rxFrame_eq_of_set (hlen : t.rxLen = s.rxLen) (hboots : t.boots = s.boots) {b : Byte}
    (hbuf : t.rxBuf = s.rxBuf.set s.rxLen b) : t.rxFrame = s.rxFrame := by
  rw [State.rxFrame, State.rxFrame, hlen]
  refine List.map_congr_left fun k hk => ?_
  have hne : k ≠ s.rxLen := (List.mem_range.1 hk).ne
  rw [State.rxRead, State.rxRead, Memory.read, Memory.read, hbuf, hboots, Memory.get?_set_of_ne _ _ hne]

/-- The start marker and a body without markers leave the receiver collecting both. -/
theorem runAll_rxLineStr_frame (hr : s.ready = true) (h : s.rxState = .idle) {body : List Byte}
    (hs : s.cfg.sofMarker ∉ body) (he : s.cfg.eofMarker ∉ body) (hl : body.length + 1 ≤ s.cfg.rxBufLen) :
    ∃ t, runAll (rxLineStr (s.cfg.sofMarker :: body)) s = .next t ∧ t.ready = true ∧ t.rxState = .collecting ∧
      t.rxLen = body.length + 1 ∧ t.rxFrame = s.cfg.sofMarker :: body ∧ t.trace = s.trace := by
  obtain ⟨t, hrun, hready, hstate, hlen, hframe, htrace⟩ :=
    runAll_rxByte_collects body (State.ready_of_begun_frame hr) rfl ((Nat.add_comm 1 _).trans_le hl)
  refine ⟨t, ?_, hready, hstate, hlen.trans (Nat.add_comm 1 _), ?_, htrace⟩
  · rw [rxLineStr, List.map_cons,
      runAll_cons_of_next ((exec_rxLine_sofMarker s).trans (exec_rxStartFrame_of_idle hr h))]
    refine Eq.trans (runAll_rxLineStr_of_no_marker ?_ ?_) hrun
    · exact hs
    · exact he
  · exact hframe.trans (congrArg (· ++ body) s.restartFrame_rxFrame)

/-- What an end marker leaves that has a slot for itself and one for the terminator (R175). -/
def State.endedFrame (s : State) : State :=
  { s with
    rxBuf := (s.rxBuf.set s.rxLen s.cfg.eofMarker).set (s.rxLen + 1) s.cfg.term, rxLen := s.rxLen + 1,
    rxBlock := true, rxByteIe := false, rxEofIe := false, rxValid := true, rxState := .idle,
    trace := s.trace ++ [.post s.cfg.rxDoneEvent] }

theorem exec_rxLine_eq_endedFrame (hr : s.ready = true) (h : s.rxState = .collecting)
    (hl : s.rxLen + 1 < s.cfg.rxBufLen) : exec (.rxLine s.cfg.eofMarker) s = .next s.endedFrame :=
  exec_rxLine_eofMarker_of_lt hr h hl

theorem State.endedFrame_rxFrame (s : State) : s.endedFrame.rxFrame = s.rxFrame ++ [s.cfg.eofMarker] :=
  (State.rxFrame_eq_of_set (s := s.collectByte s.cfg.eofMarker) (t := s.endedFrame) rfl rfl rfl).trans
    (s.collectByte_rxFrame _)

theorem State.endedFrame_terminator (s : State) : s.endedFrame.rxBuf.get? s.endedFrame.rxLen = some s.cfg.term :=
  Memory.get?_set_self _ _ _

/-- The terminator is no marker. -/
theorem State.term_notMem_frame (hr : s.ready = true) {body : List Byte} (h : s.cfg.term ∉ body) :
    s.cfg.term ∉ s.cfg.sofMarker :: body ++ [s.cfg.eofMarker] := by
  obtain ⟨-, -, -, -, -, -, -, -, hs, he⟩ := (cfgValid_iff _).1 (State.cfg_valid_of_ready hr)
  simp [h, hs.symm, he.symm]

end LineBytes

/-- Settles O37: the three kinds of line bytes. -/
theorem rxLineIsTheDeliveryContract : Obligations.RxLineIsTheDeliveryContract := by
  intro b s t hr h hf
  rw [deliveryContract]
  split_ifs with hs he
  · rw [runAll_singleton, ← exec_rxLine_sofMarker, ← hs, h]
  · subst he
    exact exec_rxLine_eofMarker_eq_runAll hr h hf
  · rw [runAll_singleton, ← exec_rxLine_of_ne hs he, h]

/-- Settles O39: the bytes before the frame, the marker and the body, the end marker, the bytes after it, and the
text. -/
theorem frameIsDecodedFromLineBytes : Obligations.FrameIsDecodedFromLineBytes := by
  intro before body after s hr hidle hbefore hafter hs he hterm hl
  obtain ⟨u, hrun, hready, hcoll, hlen, hframe, htrace⟩ := runAll_rxLineStr_frame hr hidle hs he (by omega)
  have hcfg := runAll_cfg hrun
  have hend := exec_rxLine_eq_endedFrame hready hcoll (by rw [hlen, hcfg]; omega)
  have hf := State.faultCode_of_ready hready
  have hended := ready_of_exec hend hf
  have hframe' : u.endedFrame.rxFrame = [s.cfg.sofMarker] ++ body ++ [s.cfg.eofMarker] := by
    rw [u.endedFrame_rxFrame, hframe, hcfg]
    rfl
  have hline : rxLineStr (before ++ [s.cfg.sofMarker] ++ body ++ [s.cfg.eofMarker] ++ after) =
      rxLineStr before ++ (rxLineStr (s.cfg.sofMarker :: body) ++ .rxLine u.cfg.eofMarker :: rxLineStr after) := by
    simp [rxLineStr, hcfg]
  have hafter' : u.endedFrame.cfg.sofMarker ∉ after := hcfg ▸ hafter
  have hterm' : u.endedFrame.cfg.term ∉ u.endedFrame.rxFrame := by
    rw [hframe', show u.endedFrame.cfg = s.cfg from hcfg]
    exact State.term_notMem_frame hr hterm
  refine ⟨u.endedFrame, ?_, hended, rfl, rfl, rfl, congrArg (· + 1) hlen, hframe', ?_, ?_, ?_⟩
  · rw [hline, runAll_append_of_next (runAll_rxLineStr_of_idle hr hidle hbefore), runAll_append_of_next hrun,
      runAll_cons_of_next hend, runAll_rxLineStr_of_idle hended rfl hafter']
  · rw [u.endedFrame_terminator, hcfg]
  · rw [State.endedFrame, htrace, hcfg]
  · rw [exec_rxText_of_valid hended rfl hterm', hframe']

end Sys2Proof.Machine

/-! PROOFS. Conditions of different engines commute (95_test_vectors.md P8): a condition reads and writes its own
engine's fields only, and appends its outputs to the trace. -/

namespace Sys2Proof.Machine

section Engines

variable {s t u : State} {q : Port}

/-- `s` with the fields of a port's engine taken from `a`. -/
def State.withEngine (s : State) (p : Port) (a : State) : State :=
  match p with
  | .host => s
  | .bus => { s with
      busState := a.busState, busAddr := a.busAddr, busCmd := a.busCmd, busDest := a.busDest, busEvt := a.busEvt,
      busHi := a.busHi }
  | .tx => { s with
      txState := a.txState, txBusy := a.txBusy, txBuf := a.txBuf, txLen := a.txLen, txSent := a.txSent,
      txBlIe := a.txBlIe, txCIe := a.txCIe }
  | .rx => { s with
      rxState := a.rxState, rxBuf := a.rxBuf, rxLen := a.rxLen, rxBlock := a.rxBlock, rxByteIe := a.rxByteIe,
      rxEofIe := a.rxEofIe, rxValid := a.rxValid }

theorem State.withEngine_comm {p : Port} (hpq : p ≠ q) (s a b : State) (tr : List Output) :
    ({ (s.withEngine p a).withEngine q b with trace := tr } : State) =
      { (s.withEngine q b).withEngine p a with trace := tr } := by
  cases p with
  | host => rfl
  | bus =>
    cases q with
    | bus => exact absurd rfl hpq
    | host | tx | rx => rfl
  | tx =>
    cases q with
    | tx => exact absurd rfl hpq
    | host | bus | rx => rfl
  | rx =>
    cases q with
    | rx => exact absurd rfl hpq
    | host | bus | tx => rfl

theorem State.withEngine_of_trace (p : Port) (s a : State) (tr tr' : List Output) :
    ({ ({ s with trace := tr' } : State).withEngine p a with trace := tr } : State) =
      { s.withEngine p a with trace := tr } := by
  cases p <;> rfl

/-- Of two states that each changed one engine of `s`, either may be given the other's engine. -/
theorem State.withEngine_swap {p : Port} {a b : State} (hpq : p ≠ q)
    (ha : a = { s.withEngine p a with trace := a.trace }) (hb : b = { s.withEngine q b with trace := b.trace })
    (tr : List Output) :
    ({ b.withEngine p a with trace := tr } : State) = { a.withEngine q b with trace := tr } := by
  have hba : ({ b.withEngine p a with trace := tr } : State) =
      { (s.withEngine q b).withEngine p a with trace := tr } :=
    (congrArg (fun v : State => ({ v.withEngine p a with trace := tr } : State)) hb).trans
      (State.withEngine_of_trace p _ a tr b.trace)
  have hab : ({ a.withEngine q b with trace := tr } : State) =
      { (s.withEngine p a).withEngine q b with trace := tr } :=
    (congrArg (fun v : State => ({ v.withEngine q b with trace := tr } : State)) ha).trans
      (State.withEngine_of_trace q _ b tr a.trace)
  rw [hba, hab, State.withEngine_comm hpq]

/-- A condition writes its engine's fields and the trace only (R43). -/
theorem Leaves.eq_withEngine {i : Instr} (hp : i.port ≠ .host) (h : Leaves s i t) :
    t = { s.withEngine i.port t with trace := t.trace } := by
  rw [h.eq_written]
  cases i with
  | busStart | serStart | ringPush | ringPop | ringSpace | ringOccupied | rxText => exact absurd rfl hp
  | _ => rfl

/-- The condition `i`, which leaves `t` in the state `s`, does the same whatever the engine of `q` and the trace
hold. -/
def ActsBeside (q : Port) (i : Instr) (s t : State) : Prop :=
  ∃ os, t.trace = s.trace ++ os ∧ ∀ (a : State) (tr : List Output),
    ({ s.withEngine q a with trace := tr } : State).ready = true →
      exec i { s.withEngine q a with trace := tr } = .next { t.withEngine q a with trace := tr ++ os }

/-- A condition without an output. -/
theorem ActsBeside.of_silent {i : Instr} (htrace : t.trace = s.trace)
    (h : ∀ (a : State) (tr : List Output), ({ s.withEngine q a with trace := tr } : State).ready = true →
      exec i { s.withEngine q a with trace := tr } = .next { t.withEngine q a with trace := tr }) :
    ActsBeside q i s t :=
  ⟨[], htrace.trans (List.append_nil _).symm, fun a tr hv => by rw [List.append_nil]; exact h a tr hv⟩

theorem Leaves.bus_actsBeside {i : Instr} (hp : i.port = .bus) (hq : q ≠ .bus) (h : Leaves s i t) :
    ActsBeside q i s t := by
  cases q with
  | bus => exact absurd rfl hq
  | host | tx | rx =>
    cases h with
    | selected h => exact ⟨_, rfl, fun a tr hv => exec_busAck_of_selectDevice hv h⟩
    | commanded h => exact ⟨_, rfl, fun a tr hv => exec_busAck_of_sendCommand hv h⟩
    | confirmed h => exact .of_silent rfl fun a tr hv => exec_busAck_of_confirmSelect hv h
    | retriesWrite h => exact ⟨_, rfl, fun a tr hv => exec_busNack_of_selectDevice hv h⟩
    | retriesRead h => exact ⟨_, rfl, fun a tr hv => exec_busNack_of_confirmSelect hv h⟩
    | highByte b h => exact ⟨_, rfl, fun a tr hv => exec_busData_of_receiveHigh hv h b⟩
    | lowByte b h =>
      rw [resultWord_eq_append]
      exact ⟨_, rfl, fun a tr hv => exec_busData_of_receiveLow hv h b⟩
    | stops h => exact ⟨_, rfl, fun a tr hv => exec_busStop_of_done hv h⟩
    | beginsFrame i hi | restartsFrame i hi => obtain rfl | rfl := hi <;> cases hp
    | appends i b hi => obtain rfl | rfl := hi <;> cases hp
    | discards i hi => simp [hp] at hi
    | _ => cases hp

theorem exec_tx_actsBeside {i : Instr} (hr : s.ready = true) (hp : i.port = .tx) (hq : q ≠ .tx)
    (h : exec i s = .next t) : ActsBeside q i s t := by
  obtain ⟨-, -, -, -, hle, -⟩ := s.txOk_iff.1 (State.txOk_of_ready hr)
  cases q with
  | tx => exact absurd rfl hq
  | host | bus | rx =>
    cases i with
    | txByteReady =>
      cases hie : s.txBlIe with
      | false =>
        cases (exec_txByteReady_of_gated hr hie).symm.trans h
        exact .of_silent rfl fun a tr hv => exec_txByteReady_of_gated hv hie
      | true =>
        obtain hmore | hlast | hnone : s.txSent.toNat + 1 < s.txLen.toNat ∨ s.txSent.toNat + 1 = s.txLen.toNat ∨
            s.txSent = s.txLen := by bv_omega
        · cases (exec_txByteReady_of_more hr hie hmore).symm.trans h
          exact ⟨_, rfl, fun a tr hv => exec_txByteReady_of_more hv hie hmore⟩
        · cases (exec_txByteReady_of_last hr hie hlast).symm.trans h
          exact ⟨_, rfl, fun a tr hv => exec_txByteReady_of_last hv hie hlast⟩
        · cases (exec_txByteReady_of_none_left hr hie hnone).symm.trans h
          exact .of_silent rfl fun a tr hv => exec_txByteReady_of_none_left hv hie hnone
    | txComplete =>
      cases hie : s.txCIe with
      | false =>
        cases (exec_txComplete_of_gated hr hie).symm.trans h
        exact .of_silent rfl fun a tr hv => exec_txComplete_of_gated hv hie
      | true =>
        cases (exec_txComplete_of_enabled hr hie).symm.trans h
        exact ⟨_, rfl, fun a tr hv => exec_txComplete_of_enabled hv hie⟩
    | _ => cases hp

theorem exec_rxStartFrame_actsBeside (hr : s.ready = true) (hq : q ≠ .rx) (h : exec .rxStartFrame s = .next t) :
    ActsBeside q .rxStartFrame s t := by
  cases q with
  | rx => exact absurd rfl hq
  | host | bus | tx =>
    obtain hs | hs := State.rxState_of_ready hr
    · cases (exec_rxStartFrame_of_idle hr hs).symm.trans h
      exact .of_silent rfl fun a tr hv => exec_rxStartFrame_of_idle hv hs
    · cases (exec_rxStartFrame_of_collecting hr hs).symm.trans h
      exact .of_silent rfl fun a tr hv => exec_rxStartFrame_of_collecting hv hs

theorem exec_rxByte_actsBeside {b : Byte} (hr : s.ready = true) (hq : q ≠ .rx) (h : exec (.rxByte b) s = .next t)
    (hf : t.faultCode = 0) : ActsBeside q (.rxByte b) s t := by
  cases q with
  | rx => exact absurd rfl hq
  | host | bus | tx =>
    obtain hs | hs := State.rxState_of_ready hr
    · cases (exec_rxByte_of_idle hr hs b).symm.trans h
      exact .of_silent rfl fun a tr hv => exec_rxByte_of_idle hv hs b
    · obtain ⟨hb, hi, -⟩ := State.rx_of_collecting (State.rxOk_of_ready hr) hs
      obtain hfull | hlt := (State.rxLen_le_of_ready hr).eq_or_lt
      · cases (exec_rxByte_of_full hr hb hi hfull b).symm.trans h
        exact absurd hf (FaultCode.number_ne_zero .rxOverflow)
      · cases (exec_rxByte_of_lt hr hb hi hlt b).symm.trans h
        exact .of_silent rfl fun a tr hv => exec_rxByte_of_lt hv hb hi hlt b

theorem exec_rxEndFrame_actsBeside (hr : s.ready = true) (hq : q ≠ .rx) (h : exec .rxEndFrame s = .next t)
    (hf : t.faultCode = 0) : ActsBeside q .rxEndFrame s t := by
  cases q with
  | rx => exact absurd rfl hq
  | host | bus | tx =>
    obtain hs | hs := State.rxState_of_ready hr
    · cases (exec_rxEndFrame_of_idle hr hs).symm.trans h
      exact .of_silent rfl fun a tr hv => exec_rxEndFrame_of_idle hv hs
    · obtain ⟨-, -, he⟩ := State.rx_of_collecting (State.rxOk_of_ready hr) hs
      obtain hfull | hlt := (State.rxLen_le_of_ready hr).eq_or_lt
      · cases (exec_rxEndFrame_of_full hr he hfull).symm.trans h
        exact absurd hf (FaultCode.number_ne_zero .rxOverflow)
      · cases (exec_rxEndFrame_of_lt hr he hlt).symm.trans h
        exact ⟨_, rfl, fun a tr hv => exec_rxEndFrame_of_lt hv he hlt⟩

theorem exec_rxLine_eofMarker_actsBeside (hr : s.ready = true) (hq : q ≠ .rx)
    (h : exec (.rxLine s.cfg.eofMarker) s = .next t) (hf : t.faultCode = 0) :
    ActsBeside q (.rxLine s.cfg.eofMarker) s t := by
  have hne := State.eofMarker_ne_sofMarker hr
  cases q with
  | rx => exact absurd rfl hq
  | host | bus | tx =>
    obtain hs | hs := State.rxState_of_ready hr
    · cases (exec_rxLine_of_idle hr hne hs).symm.trans h
      exact .of_silent rfl fun a tr hv => exec_rxLine_of_idle hv hne hs
    · obtain hfull | hlt := (State.rxLen_le_of_ready hr).eq_or_lt
      · cases (exec_rxLine_of_full hr hne hs hfull).symm.trans h
        exact absurd hf (FaultCode.number_ne_zero .rxOverflow)
      · obtain hfull | hroom := (Nat.succ_le_of_lt hlt).eq_or_lt
        · cases (exec_rxLine_eofMarker_of_full hr hs hfull).symm.trans h
          exact absurd hf (FaultCode.number_ne_zero .rxOverflow)
        · cases (exec_rxLine_eofMarker_of_lt hr hs hroom).symm.trans h
          exact ⟨_, rfl, fun a tr hv => exec_rxLine_eofMarker_of_lt hv hs hroom⟩

/-- Two operations that are one in every state of a configuration act beside the same engines. -/
theorem ActsBeside.congr {i j : Instr} (h : ∀ v : State, v.cfg = s.cfg → exec i v = exec j v)
    (ha : ActsBeside q j s t) : ActsBeside q i s t := by
  obtain ⟨os, htrace, hj⟩ := ha
  exact ⟨os, htrace, fun a tr hv => (h _ (by cases q <;> rfl)).trans (hj a tr hv)⟩

theorem exec_rx_actsBeside {i : Instr} (hr : s.ready = true) (hp : i.port = .rx) (hq : q ≠ .rx)
    (h : exec i s = .next t) (hf : t.faultCode = 0) : ActsBeside q i s t := by
  cases i with
  | rxStartFrame => exact exec_rxStartFrame_actsBeside hr hq h
  | rxByte b => exact exec_rxByte_actsBeside hr hq h hf
  | rxEndFrame => exact exec_rxEndFrame_actsBeside hr hq h hf
  | rxLine b =>
    by_cases hs : b = s.cfg.sofMarker
    · have hstart (v : State) (hv : v.cfg = s.cfg) : exec (.rxLine b) v = exec .rxStartFrame v := by
        rw [hs, ← hv, exec_rxLine_sofMarker]
      exact .congr hstart (exec_rxStartFrame_actsBeside hr hq ((hstart s rfl).symm.trans h))
    · by_cases he : b = s.cfg.eofMarker
      · subst he
        exact exec_rxLine_eofMarker_actsBeside hr hq h hf
      · have hbyte (v : State) (hv : v.cfg = s.cfg) : exec (.rxLine b) v = exec (.rxByte b) v :=
          exec_rxLine_of_ne (hv ▸ hs) (hv ▸ he)
        exact .congr hbyte (exec_rxByte_actsBeside hr hq ((hbyte s rfl).symm.trans h) hf)
  | _ => cases hp

/-- Every condition acts beside the engines of the other ports. -/
theorem exec_actsBeside {i : Instr} (hp : i.port ≠ .host) (hq : q ≠ i.port) (h : exec i s = .next t)
    (hf : t.faultCode = 0) : ActsBeside q i s t := by
  have hr := exec_ready h
  cases hi : i.port with
  | host => exact absurd hi hp
  | bus =>
    obtain ⟨-, hl | ⟨c, info, -, rfl⟩⟩ := exec_cases h
    · exact hl.bus_actsBeside hi (hi ▸ hq)
    · exact absurd hf c.number_ne_zero
  | tx => exact exec_tx_actsBeside hr hi (hi ▸ hq) h
  | rx => exact exec_rx_actsBeside hr hi (hi ▸ hq) h hf

theorem exec_eq_withEngine {i : Instr} (hp : i.port ≠ .host) (h : exec i s = .next t) (hf : t.faultCode = 0) :
    t = { s.withEngine i.port t with trace := t.trace } := by
  obtain ⟨-, hl | ⟨c, info, -, rfl⟩⟩ := exec_cases h
  · exact hl.eq_withEngine hp
  · exact absurd hf c.number_ne_zero

theorem runAll_pair {i j : Instr} (h : runAll [i, j] s = .next t) :
    ∃ u, exec i s = .next u ∧ u.ready = true ∧ exec j u = .next t := by
  cases he : exec i s with
  | next u =>
    rw [runAll_cons_of_next he, runAll_singleton] at h
    exact ⟨u, rfl, exec_ready h, h⟩
  | fault f => simp [runAll, he] at h
  | refused r => simp [runAll, he] at h

/-- A condition performed after one of another engine does what it would have done before it. -/
theorem exec_after_other {i j : Instr} {s1 s2 : State} (hi : i.port ≠ .host) (hj : j.port ≠ .host)
    (hij : i.port ≠ j.port) (h1 : exec i s = .next s1) (h2 : exec j s = .next s2) (hr1 : s1.ready = true)
    (hr2 : s2.ready = true) :
    ∃ os, s1.trace = s.trace ++ os ∧ exec i s2 = .next { s1.withEngine j.port s2 with trace := s2.trace ++ os } := by
  obtain ⟨os, htrace, hact⟩ := exec_actsBeside hi hij.symm h1 (State.faultCode_of_ready hr1)
  have heq := exec_eq_withEngine hj h2 (State.faultCode_of_ready hr2)
  refine ⟨os, htrace, ?_⟩
  have hrun := hact s2 s2.trace (heq ▸ hr2)
  rwa [← heq] at hrun

end Engines

/-- Settles O51: each condition leaves its engine's fields and its outputs, in either order. -/
theorem conditionsOfDifferentEnginesCommute : Obligations.ConditionsOfDifferentEnginesCommute := by
  intro i j s t u hi hj hij hrunij hrunji _ _
  obtain ⟨s1, h1, hr1, ht⟩ := runAll_pair hrunij
  obtain ⟨s2, h2, hr2, hu⟩ := runAll_pair hrunji
  obtain ⟨os, htrace, he⟩ := exec_after_other hi hj hij h1 h2 hr1 hr2
  obtain ⟨os', htrace', he'⟩ := exec_after_other hj hi hij.symm h2 h1 hr2 hr1
  cases he.symm.trans hu
  cases he'.symm.trans ht
  constructor
  · exact State.withEngine_swap hij (exec_eq_withEngine hi h1 (State.faultCode_of_ready hr1))
      (exec_eq_withEngine hj h2 (State.faultCode_of_ready hr2)) []
  · rw [htrace, htrace', List.append_assoc, List.append_assoc]
    exact List.perm_append_comm.append_left s.trace

end Sys2Proof.Machine
